-- ==== Sys2Proof/Word.lean ====
section
/-! DEFINITION. The word types of the block (00_scope.md R10). Every value is unsigned and bit 0 is the least significant. -/

namespace Sys2Proof

/-- A byte: 8 bits (R10). -/
abbrev Byte := BitVec 8

/-- A DeviceId: 64 bits; bit `k` crosses the bus at wire position `k` (R10, R55). -/
abbrev DeviceId := BitVec 64

/-- A wire position, 0 to 63, in the 6 bits the spec gives `ld_pos` and `lz_pos` (R20). -/
abbrev WirePos := BitVec 6

/-- A host command word, format HC (R70). -/
abbrev CommandWord := BitVec 16

/-- A transport request word, format XQ (R78). -/
abbrev RequestWord := BitVec 9

/-- A transport answer word, format XA (R79). -/
abbrev AnswerWord := BitVec 10

end Sys2Proof
end

