-- ==== Sys2Proof/Syntax.lean ====
section
/-! DEFINITION. The instructions: one constructor for each of the 34 rows of spec/opcode_table.json, and the words on the
block's channels that stand for them (30_encoding.md). -/

namespace Sys2Proof

/-- The operand of `Configure` (30_encoding.md R78, 40_transport.md R100). -/
inductive ConfigMode where
  | resetMode
  | dataMode
  deriving DecidableEq, Repr

/-- The opcode table, row by row. A host command without operand keeps its ignored `ARG` (R71), so that no bit of a word
is lost between decoding and encoding. -/
inductive Instr where
  -- host commands, format HC (R72)
  | init (arg : Byte)
  | reset (arg : Byte)
  | discover (arg : Byte)
  | deviceCount (arg : Byte)
  | devices (arg : Byte)
  | device (index : Byte)
  | lastError (arg : Byte)
  | writeByte (value : Byte)
  | readByte (arg : Byte)
  | skipRom (arg : Byte)
  | readRom (arg : Byte)
  | searchRom (arg : Byte)
  | matchRom (arg : Byte)
  -- the reserved OPC space, format HC (R82): `x` is the part of OPC the row leaves free
  | reserved00 (arg : Byte)
  | reserved0E (arg : Byte)
  | reserved0F (arg : Byte)
  | reserved10to1F (x : BitVec 4) (arg : Byte)
  | reserved20to3F (x : BitVec 5) (arg : Byte)
  | reserved40to7F (x : BitVec 6) (arg : Byte)
  | reserved80toFF (x : BitVec 7) (arg : Byte)
  -- transport requests and slot patterns, format XQ (R78, R80)
  | configure (m : ConfigMode)
  | transceive (b : Byte)
  | resetPulse
  | writeBit1
  | writeBit0
  | readBit
  -- transport answers, format XA (R79, R83)
  | xaCaptured (c : Byte)
  | xaNothingOrDone
  | xaFailure (low : Byte)
  | xaReserved (kind : BitVec 2) (low : Byte)
  -- ROM command bytes (R77)
  | romSkip
  | romRead
  | romMatch
  | romSearch
  deriving DecidableEq, Repr

/-- The use a transport request word is put to. 0x1FF is the word of WRITE_BIT_1 and of READ_BIT, and every slot pattern
is also a TRANSCEIVE word: the rows differ only in what reads the capture (R80, log 6). -/
inductive SlotUse where
  | plain
  | resetPulse
  | writeBit
  | readBit
  deriving DecidableEq, Repr

/-- One word on one channel of the block: the host port's command channel (R70), the transport port's request channel
(R78) with the use of the word, its answer channel (R79), and a ROM command byte on the bus (R77). The hardware's outside
world sends `host` and `answer` words only; `call` and `romByte` are the model's own channel for the rows of the table
that are internal to the engine (R73, log 4). -/
inductive PortWord where
  | host (w : CommandWord)
  | call (use : SlotUse) (w : RequestWord)
  | answer (w : AnswerWord)
  | romByte (b : Byte)
  deriving DecidableEq, Repr

end Sys2Proof
end

