-- ==== Sys2Proof/WellFormed.lean ====
section
/-! DEFINITION. Which terms of `Instr` are instructions: every term but a reserved answer whose bits are those of another
row of the answer table. All other operands are bound by their types (a byte, a mode, the free bits of a reserved OPC). -/

namespace Sys2Proof

/-- The answer words outside the table of 30_encoding.md R79: kind 3 with any byte, and kind 1 with a nonzero byte (R83
and the note of the XA_RESERVED row; log 16). -/
def outsideAnswerTable (kind : BitVec 2) (low : Byte) : Bool :=
  kind == 3#2 || (kind == 1#2 && low != 0#8)

/-- Well-formedness of an instruction. -/
def Instr.wellFormed : Instr → Bool
  | .init _ | .reset _ | .discover _ | .deviceCount _ | .devices _ | .device _ | .lastError _ => true
  | .writeByte _ | .readByte _ | .skipRom _ | .readRom _ | .searchRom _ | .matchRom _ => true
  | .reserved00 _ | .reserved0E _ | .reserved0F _ => true
  | .reserved10to1F _ _ | .reserved20to3F _ _ | .reserved40to7F _ _ | .reserved80toFF _ _ => true
  | .configure _ | .transceive _ | .resetPulse | .writeBit1 | .writeBit0 | .readBit => true
  | .xaCaptured _ | .xaNothingOrDone | .xaFailure _ => true
  | .xaReserved kind low => outsideAnswerTable kind low
  | .romSkip | .romRead | .romMatch | .romSearch => true

end Sys2Proof
end

