-- ==== Sys2Proof/Decode.lean ====
section
/-! DEFINITION. The decoder, total on every word of every channel and rejecting by name; the encoder, written from the same
tables of 30_encoding.md; the host's table-word entry. -/

namespace Sys2Proof

/-- Why a word spells no row of the opcode table. No word of the host port or of the answer channel is rejected: R82 and
R83 give each of them a meaning. -/
inductive Reject where
  /-- A request word with bit 8 clear and a nonzero bit among 7 to 1: "The engine never emits" one (R78). -/
  | malformedRequest (w : RequestWord)
  /-- A word that is not the byte pattern of the slot it is used for (R80). -/
  | notSlotPattern (use : SlotUse) (w : RequestWord)
  /-- A byte that is none of the four ROM commands (R77). -/
  | notRomCommand (b : Byte)
  deriving DecidableEq, Repr

/-- `OPC` of a command word (R70). -/
def opcOf (w : CommandWord) : Byte := w.extractLsb' 8 8

/-- `ARG` of a command word (R70). -/
def argOf (w : CommandWord) : Byte := w.extractLsb' 0 8

/-- A command word of `OPC` and `ARG` (R70). -/
def commandWord (opc arg : Byte) : CommandWord := opc ++ arg

/-- Format HC (R70, R72, R82): every 16-bit word is a command or reserved. -/
def decodeHost (w : CommandWord) : Instr :=
  let arg := argOf w
  match (opcOf w).toNat with
  | 0x01 => .init arg
  | 0x02 => .reset arg
  | 0x03 => .discover arg
  | 0x04 => .deviceCount arg
  | 0x05 => .devices arg
  | 0x06 => .device arg
  | 0x07 => .lastError arg
  | 0x08 => .writeByte arg
  | 0x09 => .readByte arg
  | 0x0A => .skipRom arg
  | 0x0B => .readRom arg
  | 0x0C => .searchRom arg
  | 0x0D => .matchRom arg
  | 0x00 => .reserved00 arg
  | 0x0E => .reserved0E arg
  | 0x0F => .reserved0F arg
  | n =>
    if n < 0x20 then .reserved10to1F (w.extractLsb' 8 4) arg
    else if n < 0x40 then .reserved20to3F (w.extractLsb' 8 5) arg
    else if n < 0x80 then .reserved40to7F (w.extractLsb' 8 6) arg
    else .reserved80toFF (w.extractLsb' 8 7) arg

/-- The code of a configuration in bit 0 of a request (R78). -/
def configBit : ConfigMode → Bool
  | .resetMode => false
  | .dataMode => true

/-- The configuration a code in bit 0 of a request names (R78). -/
def configOfBit (b : Bool) : ConfigMode := if b then .dataMode else .resetMode

/-- Format XQ without a use: CONFIGURE or TRANSCEIVE (R78). -/
def decodeRequest (w : RequestWord) : Except Reject Instr :=
  if w.getLsbD 8 then .ok (.transceive (w.extractLsb' 0 8))
  else if w.extractLsb' 1 7 = 0#7 then .ok (.configure (configOfBit (w.getLsbD 0)))
  else .error (.malformedRequest w)

/-- Format XQ in a use: the slot patterns of R80, with the words the opcode table gives them. -/
def decodeCall (use : SlotUse) (w : RequestWord) : Except Reject Instr :=
  match use with
  | .plain => decodeRequest w
  | .resetPulse => if w = 0x1F0#9 then .ok .resetPulse else .error (.notSlotPattern use w)
  | .writeBit =>
    if w = 0x1FF#9 then .ok .writeBit1
    else if w = 0x100#9 then .ok .writeBit0
    else .error (.notSlotPattern use w)
  | .readBit => if w = 0x1FF#9 then .ok .readBit else .error (.notSlotPattern use w)

/-- Format XA (R79, R83): every 10-bit word is an answer, those outside the table as XA_RESERVED (log 16). -/
def decodeAnswer (w : AnswerWord) : Instr :=
  let low : Byte := w.extractLsb' 0 8
  let kind : BitVec 2 := w.extractLsb' 8 2
  if kind = 0#2 then .xaCaptured low
  else if kind = 2#2 then .xaFailure low
  else if kind = 1#2 ∧ low = 0#8 then .xaNothingOrDone
  else .xaReserved kind low

/-- The ROM command bytes (R77). -/
def decodeRomByte (b : Byte) : Except Reject Instr :=
  if b = 0xCC#8 then .ok .romSkip
  else if b = 0x33#8 then .ok .romRead
  else if b = 0x55#8 then .ok .romMatch
  else if b = 0xF0#8 then .ok .romSearch
  else .error (.notRomCommand b)

/-- The decoder: the instruction a word on a channel spells, or the reason it spells none. -/
def decode : PortWord → Except Reject Instr
  | .host w => .ok (decodeHost w)
  | .call use w => decodeCall use w
  | .answer w => .ok (decodeAnswer w)
  | .romByte b => decodeRomByte b

/-- The request word of `Configure(m)` (R78). -/
def configureWord (m : ConfigMode) : RequestWord := 0#8 ++ BitVec.ofBool (configBit m)

/-- The request word of `Transceive(b)` (R78). -/
def transceiveWord (b : Byte) : RequestWord := 1#1 ++ b

/-- The encoder: the word, on its channel, of each instruction (R70, R72, R77 to R80, R82). -/
def encode : Instr → PortWord
  | .init arg => .host (commandWord 0x01#8 arg)
  | .reset arg => .host (commandWord 0x02#8 arg)
  | .discover arg => .host (commandWord 0x03#8 arg)
  | .deviceCount arg => .host (commandWord 0x04#8 arg)
  | .devices arg => .host (commandWord 0x05#8 arg)
  | .device index => .host (commandWord 0x06#8 index)
  | .lastError arg => .host (commandWord 0x07#8 arg)
  | .writeByte value => .host (commandWord 0x08#8 value)
  | .readByte arg => .host (commandWord 0x09#8 arg)
  | .skipRom arg => .host (commandWord 0x0A#8 arg)
  | .readRom arg => .host (commandWord 0x0B#8 arg)
  | .searchRom arg => .host (commandWord 0x0C#8 arg)
  | .matchRom arg => .host (commandWord 0x0D#8 arg)
  | .reserved00 arg => .host (commandWord 0x00#8 arg)
  | .reserved0E arg => .host (commandWord 0x0E#8 arg)
  | .reserved0F arg => .host (commandWord 0x0F#8 arg)
  | .reserved10to1F x arg => .host (commandWord (0b0001#4 ++ x) arg)
  | .reserved20to3F x arg => .host (commandWord (0b001#3 ++ x) arg)
  | .reserved40to7F x arg => .host (commandWord (0b01#2 ++ x) arg)
  | .reserved80toFF x arg => .host (commandWord (0b1#1 ++ x) arg)
  | .configure m => .call .plain (configureWord m)
  | .transceive b => .call .plain (transceiveWord b)
  | .resetPulse => .call .resetPulse 0x1F0#9
  | .writeBit1 => .call .writeBit 0x1FF#9
  | .writeBit0 => .call .writeBit 0x100#9
  | .readBit => .call .readBit 0x1FF#9
  | .xaCaptured c => .answer (0#2 ++ c)
  | .xaNothingOrDone => .answer 0x100#10
  | .xaFailure low => .answer (2#2 ++ low)
  | .xaReserved kind low => .answer (kind ++ low)
  | .romSkip => .romByte 0xCC#8
  | .romRead => .romByte 0x33#8
  | .romMatch => .romByte 0x55#8
  | .romSearch => .romByte 0xF0#8

/-- The use in which a bare request word is read when only the word is known: the row of the opcode table that fixes the
most bits, and the first such row of two (log 6). -/
def useOfWord (w : RequestWord) : SlotUse :=
  if w = 0x1F0#9 then .resetPulse
  else if w = 0x1FF#9 ∨ w = 0x100#9 then .writeBit
  else .plain

/-- The channel of a table word, by the width of its format: 16 bits HC, 10 bits XA, 9 bits XQ, 8 bits ROMCMD. A word of
16 bits is a command word, whatever row it was taken from: nothing else on the block is 16 bits wide (log 6). -/
def tableWord (nbits w : Nat) : Option PortWord :=
  match nbits with
  | 16 => some (.host (BitVec.ofNat 16 w))
  | 10 => some (.answer (BitVec.ofNat 10 w))
  | 9 => some (.call (useOfWord (BitVec.ofNat 9 w)) (BitVec.ofNat 9 w))
  | 8 => some (.romByte (BitVec.ofNat 8 w))
  | _ => none

/-- The instruction the decoder reads from a table word of `nbits` bits. -/
def decodeTableWord (nbits w : Nat) : Option Instr :=
  match tableWord nbits w with
  | none => none
  | some p => (decode p).toOption

end Sys2Proof
end

