-- ==== Sys2Proof/Config.lean ====
section
/-! DEFINITION. What an implementation fixes (00_scope.md R7, R8): the configuration record, and the one parameter the
spec leaves OPEN as an uninterpreted constant. The hardware's own record is `Machine.hw` (Machine/Operands.lean), which a
repair may mend. -/

namespace Sys2Proof

/-- What came back while one byte was sent: one captured byte, or no byte at all (40_transport.md R101, R102). -/
inductive Capture where
  | captured (c : Byte)
  | nothing
  deriving DecidableEq, Repr

/-- The three outcomes a reset capture can have (42_bus_control.md R121). -/
inductive ResetClass where
  | presence
  | noDevices
  | noBus
  deriving DecidableEq, Repr

/-- The configuration record of R8, so that a claim may name a field or quantify over all records. -/
structure Config where
  /-- `REG_CAPACITY`: how many entries the registry holds (R7). -/
  regCapacity : Nat
  /-- `classifyReset`: the reading of the reset capture (R121). -/
  classifyReset : Capture → ResetClass
  /-- `decodeBit`: the reading of a read-slot capture (R112). -/
  decodeBit : Capture → Bool
  /-- `PAT_RESET` (R7). -/
  patReset : Byte
  /-- `PAT_W1` (R7). -/
  patW1 : Byte
  /-- `PAT_W0` (R7). -/
  patW0 : Byte
  /-- `PAT_RD` (R7). -/
  patRd : Byte

/-- FREE VALUE (log 8): R7 leaves `REG_CAPACITY` OPEN, "an integer from 1 to 256". This is that integer less one, and
nothing in Lean can tell which it is. -/
opaque Config.openCapacity : Fin 256

/-- `REG_CAPACITY`, some integer from 1 to 256 (R7). -/
def Config.capacity : Nat := Config.openCapacity.val + 1

/-- `RESET_BAUD` (R7). No rule depends on it (log 20). -/
def Config.resetBaud : Nat := 9600

/-- `DATA_BAUD` (R7). No rule depends on it (log 20). -/
def Config.dataBaud : Nat := 115200

/-- `FAMILY_INDEX` (R7, R56): the family code is byte 0 of a DeviceId (log 20). -/
def Config.familyIndex : Nat := 0

end Sys2Proof
end

