-- ==== Sys2Proof/Machine/State.lean ====
section
/-! DEFINITION. The state of one engine instance (10_state.md), as plain data, with the reasons a step can stop and the state
after a hardware reset (70_reset_and_hazards.md R200). -/

namespace Sys2Proof.Machine

/-- `mode` (R36): the transport configuration the engine last set with success. The value 3 is never written. -/
inductive Mode where
  | unconf
  | resetMode
  | dataMode
  deriving DecidableEq, Repr

/-- `err_code` (R35): the code of the ErrorRecord. The value 3 is never written. -/
inductive ErrCode where
  | noError
  | noDevices
  | noBus
  deriving DecidableEq, Repr

/-- The response status (30_encoding.md R75). The values 6 and 7 are never produced. -/
inductive Status where
  | ok
  | stFalse
  | notFound
  | xport
  | reject
  | ovf
  deriving DecidableEq, Repr

/-- A response on the host port, carried as a record as R74 allows. -/
structure Response where
  status : Status
  data : BitVec 64
  beats : List DeviceId
  deriving DecidableEq, Repr

/-- A transport request (R78). -/
inductive Request where
  | configure (m : ConfigMode)
  | transceive (b : Byte)
  deriving DecidableEq, Repr

/-- What a transport answer says (R79, R83), before it is known what it answers. -/
inductive Answer where
  | captured (c : Byte)
  | nothingOrDone
  | failure
  deriving DecidableEq, Repr

/-- An event of the transport trace (00_scope.md R12). -/
inductive TransportEvent where
  | cfg (m : ConfigMode)
  | cfgFail (m : ConfigMode)
  | xfer (b : Byte) (r : Capture)
  | xferFail (b : Byte)
  deriving DecidableEq, Repr

/-- Which command an enumeration belongs to (43_rom_search.md R146, R152). -/
inductive Owner where
  | discover
  | init
  deriving DecidableEq, Repr

/-- What a RESET procedure returns to: the RESET command, INITIALIZE before its enumeration (R152), or a search pass (R141). -/
inductive ResetCaller where
  | command
  | init
  | pass (o : Owner)
  deriving DecidableEq, Repr

/-- The host commands that are one WRITE_BYTE procedure (R113, R123 to R126). -/
inductive ByteCommand where
  | writeByte
  | skipRom
  | readRom
  | searchRom
  | matchRom
  deriving DecidableEq, Repr

/-- What a WRITE_BYTE procedure returns to: a host command, the search pass that sends the Search ROM byte (R141), or
nothing (a ROM command byte run on its own, log 4). -/
inductive WriteCaller where
  | command (c : ByteCommand)
  | pass (o : Owner)
  | alone
  deriving DecidableEq, Repr

/-- Which of the three slots of a wire position is on the bus (R141), with the first readback bit `a` once it is known and
the direction `d` that is written back. -/
inductive SearchSlot where
  | firstRead
  | secondRead (a : Bool)
  | writeBack (d : Bool)
  deriving DecidableEq, Repr

/-- A one-byte procedure that runs on its own (log 4). -/
inductive LoneSlot where
  | transceive (b : Byte)
  | resetPulse
  | writeBit (v : Bool)
  | readBit
  deriving DecidableEq, Repr

/-- Where the engine is when its outstanding request is a `Configure`. `resetExit` holds the reset capture, which is
classified after the second `Configure` (42_bus_control.md R120). -/
inductive ConfigPoint where
  | resetEntry (k : ResetCaller)
  | resetExit (k : ResetCaller) (r : Capture)
  | alone (m : ConfigMode)
  deriving DecidableEq, Repr

/-- Where the engine is when its outstanding request is a `Transceive`. -/
inductive TransceivePoint where
  | resetPulse (k : ResetCaller)
  | writeSlot (k : WriteCaller)
  | readSlot
  | search (o : Owner) (slot : SearchSlot)
  | alone (u : LoneSlot)
  deriving DecidableEq, Repr

/-- The sequencing position inside a command (10_state.md R30). A running engine always has exactly one request
outstanding (20_memory.md R65), and the position says which. -/
inductive Job where
  | configuring (p : ConfigPoint)
  | transceiving (p : TransceivePoint)
  deriving DecidableEq, Repr

/-- The result of an internal procedure that ran on its own. The model's own (log 4). -/
inductive LoneResult where
  | done
  | capture (r : Capture)
  | bit (v : Bool)
  | presence (c : ResetClass)
  | transportError (r : Request)
  deriving DecidableEq, Repr

/-- One thing the outside world sends (60_exceptions.md R190): a word on a channel, or the hardware reset. -/
inductive Input where
  | word (p : PortWord)
  | hardReset
  deriving DecidableEq, Repr

/-- The state (10_state.md R20). `busy` and `count` are the views `State.busy` and `State.count` (log 9). -/
structure State where
  /-- `mode` (R36). -/
  mode : Mode
  /-- `err_code` (R35). -/
  errCode : ErrCode
  /-- The valid registry entries `reg[0]` to `reg[count-1]` (R40). -/
  reg : List DeviceId
  /-- `ld` (R22). -/
  ld : Option WirePos
  /-- `cur_id` (R21). -/
  curId : DeviceId
  /-- `lz` (R23). -/
  lz : Option WirePos
  /-- `pos` (R24). -/
  pos : BitVec 7
  /-- `sh` (R24). -/
  sh : Byte
  /-- `bitcnt` (R24). -/
  bitcnt : BitVec 4
  /-- The sequencing position; `none` when the engine is idle (R30, R31). -/
  job : Option Job
  /-- The result of the last internal procedure run on its own; no rule reads it (log 4). -/
  ret : Option LoneResult
  /-- What the outside world sends from here on, in order of arrival (R9, R190; log 1, log 2). -/
  inbox : List Input
  /-- The responses given so far, oldest first (R12, R74). -/
  responses : List Response
  /-- The transport trace, oldest first (R12, R44). -/
  trace : List TransportEvent
  deriving DecidableEq, Repr

/-- The reasons the machine stops with a fault. -/
inductive Fault where
  /-- Raised by `step` alone, on a `call` word with bit 8 clear and a nonzero bit among 7 to 1: "The engine never emits a
  Configure word with a nonzero bit" there (R78). Safe: no run of the hardware has such a word (log 17). -/
  | malformedRequest (w : RequestWord)
  deriving DecidableEq, Repr

/-- The reasons a word is refused. -/
inductive Refusal where
  /-- Raised by `exec` for a constructor that has no meaning yet. Safe. No arm of this model raises it. -/
  | notModelled (mnemonic : String)
  /-- Raised by `step` alone, on a `call` word that is not a pattern of the slot it is used for (R80). Safe: no run of the
  hardware has such a word (log 17). -/
  | notSlotPattern (w : RequestWord)
  /-- Raised by `step` alone, on a `romByte` that is none of the four ROM commands (R77). Safe: no run of the hardware has
  such a word; WRITE_BYTE sends every byte (R84, log 17). -/
  | notRomCommand (b : Byte)
  deriving DecidableEq, Repr

/-- The state after a hardware reset (R20, R45, R200): idle, nothing configured, no error, an empty registry. The inbox,
the two histories and `ret` are the model's own and start empty (log 12). -/
def State.reset : State where
  mode := .unconf
  errCode := .noError
  reg := []
  ld := none
  curId := 0#64
  lz := none
  pos := 0#7
  sh := 0#8
  bitcnt := 0#4
  job := none
  ret := none
  inbox := []
  responses := []
  trace := []

end Sys2Proof.Machine
end

