-- ==== Sys2Proof/Machine/Flags.lean ====
section
/-! DEFINITION. The status computations: the block has no condition codes (10_state.md R32); what it has is the response
status, the error record, and the two readings of a capture that decide them. -/

namespace Sys2Proof.Machine

/-- The two bits of `mode` (R36). -/
def Mode.bits : Mode → BitVec 2
  | .unconf => 0#2
  | .resetMode => 1#2
  | .dataMode => 2#2

/-- The mode a successful `Configure(m)` leaves (40_transport.md R100). -/
def Mode.ofConfig : ConfigMode → Mode
  | .resetMode => .resetMode
  | .dataMode => .dataMode

/-- The number of an error code (R35, R7). -/
def ErrCode.bits : ErrCode → BitVec 2
  | .noError => 0#2
  | .noDevices => 1#2
  | .noBus => 2#2

/-- The message of an error code (44_registry.md R164). "No claim should rest on the text of a message." -/
def ErrCode.message : ErrCode → String
  | .noError => "No error"
  | .noDevices => "No 1-Wire devices are connected"
  | .noBus => "No 1-Wire circuit detected"

/-- The number of a status (30_encoding.md R75). -/
def Status.bits : Status → BitVec 3
  | .ok => 0#3
  | .stFalse => 1#3
  | .notFound => 2#3
  | .xport => 3#3
  | .reject => 4#3
  | .ovf => 5#3

/-- The status of a command whose result is one Boolean (R75). -/
def boolStatus (result : Bool) : Status := if result then .ok else .stFalse

/-- The hardware's `classifyReset` (42_bus_control.md R121), over its reset pattern (log 7). -/
def classifyResetBy (patReset : Byte) : Capture → ResetClass
  | .nothing => .noBus
  | .captured c => if c = patReset then .noDevices else .presence

/-- The hardware's `decodeBit` (41_codec.md R112), over its read pattern (log 7). -/
def decodeBitBy (patRd : Byte) : Capture → Bool
  | .captured c => c == patRd
  | .nothing => false

/-- What a RESET writes to `err_code` for a class of capture; `none` where it writes nothing (R120, R122). -/
def resetErrCode : ResetClass → Option ErrCode
  | .presence => none
  | .noDevices => some .noDevices
  | .noBus => some .noBus

end Sys2Proof.Machine
end

