-- ==== Sys2Proof/Machine/Operands.lean ====
section
/-! DEFINITION. Operand forms and bit selection: the configuration of this hardware, the bytes of an identifier and of the
registry byte space, slot patterns, the reading of an answer word, the layout of a response. -/

namespace Sys2Proof

/-- `id.byte(j)` = `id[8j+7:8j]` (00_scope.md R10). -/
def DeviceId.byte (id : DeviceId) (j : Nat) : Byte := id.extractLsb' (8 * j) 8

/-- The bit of a DeviceId that crosses the bus at wire position `k` (20_memory.md R55). -/
def DeviceId.wireBit (id : DeviceId) (k : Nat) : Bool := id.getLsbD k

/-- The family code of a DeviceId: its byte at `FAMILY_INDEX` (R56). -/
def DeviceId.familyCode (id : DeviceId) : Byte := DeviceId.byte id Config.familyIndex

/-- `id` with bit `k` set to `d` and the other bits as they were (43_rom_search.md R158). -/
def DeviceId.withBit (id : DeviceId) (k : Nat) (d : Bool) : DeviceId :=
  if d then id ||| (1#64 <<< k) else id &&& ~~~(1#64 <<< k)

/-- The byte sent for a write slot (30_encoding.md R80, 41_codec.md R110). -/
def Config.writePattern (cfg : Config) (v : Bool) : Byte := if v then cfg.patW1 else cfg.patW0

namespace Machine

/-- `PAT_RESET` of this hardware (00_scope.md R7, log 7). -/
def hwPatReset : Byte := 0xF0#8

/-- `PAT_W1` of this hardware (R7, log 7). -/
def hwPatW1 : Byte := 0xFF#8

/-- `PAT_W0` of this hardware (R7, log 7). -/
def hwPatW0 : Byte := 0x00#8

/-- `PAT_RD` of this hardware (R7, log 7). -/
def hwPatRd : Byte := 0xFF#8

/-- The configuration of this hardware (R7, R8). -/
def hw : Config where
  regCapacity := Config.capacity
  classifyReset := classifyResetBy hwPatReset
  decodeBit := decodeBitBy hwPatRd
  patReset := hwPatReset
  patW1 := hwPatW1
  patW0 := hwPatW0
  patRd := hwPatRd

/-- `ROM_SKIP` (R77). -/
def romSkipByte : Byte := 0xCC#8

/-- `ROM_READ` (R77). -/
def romReadByte : Byte := 0x33#8

/-- `ROM_MATCH` (R77). -/
def romMatchByte : Byte := 0x55#8

/-- `ROM_SEARCH` (R77). Not to be confused with `PAT_RESET`, which has the same value (R13). -/
def romSearchByte : Byte := 0xF0#8

/-- `sh <- {0, sh[7:1]}`: the shift of WRITE_BYTE (R113). -/
def shiftOut (sh : Byte) : Byte := 0#1 ++ sh.extractLsb' 1 7

/-- `sh <- {t, sh[7:1]}`: the shift of READ_BYTE, the new bit entering at bit 7 (R114). -/
def shiftIn (t : Bool) (sh : Byte) : Byte := BitVec.ofBool t ++ sh.extractLsb' 1 7

/-- The index operand of DEVICE, zero-extended (30_encoding.md R71). -/
def indexOf (arg : Byte) : Nat := (arg.zeroExtend 9).toNat

/-- What an answer says, by the instruction its word decodes to (R79, R83); `none` for an instruction of another format. -/
def answerOfInstr : Instr → Option Answer
  | .xaCaptured c => some (.captured c)
  | .xaNothingOrDone => some .nothingOrDone
  | .xaFailure _ => some .failure
  | .xaReserved _ _ => some .failure
  | _ => none

/-- What an answer word says (R79); a word outside the table is a failure (R83). -/
def answerOfWord (w : AnswerWord) : Answer := (answerOfInstr (decodeAnswer w)).getD .failure

/-- The request word of a request (R78). -/
def Request.word : Request → RequestWord
  | .configure m => configureWord m
  | .transceive b => transceiveWord b

/-- Byte `addr` of the registry byte space: byte `j` of entry `i` is at `8i + j` (20_memory.md R50, R58). `none` where no
valid entry stands (log 10). -/
def Registry.memByte (reg : List DeviceId) (addr : Nat) : Option Byte :=
  (reg[addr / 8]?).map fun id => DeviceId.byte id (addr % 8)

/-- `MemRead(addr, n)` (R11): `n` bytes, the byte at the lowest address the least significant (R58). -/
def Registry.memRead (reg : List DeviceId) (addr : Nat) : (n : Nat) → Option (BitVec (8 * n))
  | 0 => some 0#0
  | n + 1 =>
    match Registry.memByte reg addr, Registry.memRead reg (addr + 1) n with
    | some low, some high => some (high ++ low)
    | _, _ => none

/-- `reg[i]` for a valid `i`, the whole-entry read `MemRead(8*i, 8)` (R60, R167). -/
def Registry.entry (reg : List DeviceId) (i : Nat) : Option DeviceId := reg[i]?

/-- The append `MemWrite(8*count, 8, id); count <- count + 1` (R147, R167). -/
def Registry.append (reg : List DeviceId) (id : DeviceId) : List DeviceId := reg ++ [id]

/-- The packed header of a response, `{status[2:0], data[63:0]}` (R74). -/
def Response.header (r : Response) : BitVec 67 := r.status.bits ++ r.data

end Machine

end Sys2Proof
end

