-- ==== Sys2Proof/Machine/Ops.lean ====
section
/-! DEFINITION. The named operations on the state: the views, accepting and answering a command, the registry, the transport
port, TransportError as the one shared way an event ends a procedure (60_exceptions.md R172), and the hardware reset. -/

namespace Sys2Proof.Machine

/-- `busy` (10_state.md R31): a command word was accepted and has not been answered. -/
def State.busy (s : State) : Bool := s.job.isSome

/-- `count` (R37): the number of valid registry entries. -/
def State.count (s : State) : BitVec 9 := BitVec.ofNat 9 s.reg.length

/-- `zext_64(count)`, the `data` of DEVICE_COUNT, DEVICES and DISCOVER (30_encoding.md R76). -/
def State.countData (s : State) : BitVec 64 := s.count.zeroExtend 64

/-- The byte a `Transceive` sends at a sequencing position (R80). -/
def TransceivePoint.byteSent (cfg : Config) (sh : Byte) : TransceivePoint → Byte
  | .resetPulse _ => cfg.patReset
  | .writeSlot _ => cfg.writePattern (sh.getLsbD 0)
  | .readSlot => cfg.patRd
  | .search _ .firstRead => cfg.patRd
  | .search _ (.secondRead _) => cfg.patRd
  | .search _ (.writeBack d) => cfg.writePattern d
  | .alone (.transceive b) => b
  | .alone .resetPulse => cfg.patReset
  | .alone (.writeBit v) => cfg.writePattern v
  | .alone .readBit => cfg.patRd

/-- The operand of the `Configure` at a sequencing position (R120). -/
def ConfigPoint.operand : ConfigPoint → ConfigMode
  | .resetEntry _ => .resetMode
  | .resetExit _ _ => .dataMode
  | .alone m => m

/-- The request outstanding at a sequencing position. -/
def Job.request (cfg : Config) (sh : Byte) : Job → Request
  | .configuring p => .configure p.operand
  | .transceiving p => .transceive (p.byteSent cfg sh)

/-- The request on the transport port that has no answer yet, with the `mode` the environment sees it in (R208). -/
def State.request (cfg : Config) (s : State) : Option (Mode × Request) :=
  s.job.map fun j => (s.mode, j.request cfg s.sh)

/-- Issue the request of a sequencing position, and wait for its answer (40_transport.md R107). -/
def await (j : Job) (s : State) : State := { s with job := some j }

/-- `Respond(status, data, beats)`: put the response on the host port and clear `busy` (00_scope.md R11). -/
def respond (st : Status) (data : BitVec 64) (beats : List DeviceId) (s : State) : State :=
  { s with job := none, responses := s.responses ++ [{ status := st, data := data, beats := beats }] }

/-- A word that is not accepted: `ST_REJECT` and nothing else; the command in progress is not disturbed (R82, R176). -/
def rejectWord (s : State) : State :=
  { s with responses := s.responses ++ [{ status := .reject, data := 0#64, beats := [] }] }

/-- The end of an internal procedure that ran on its own (log 4). -/
def finishAlone (r : LoneResult) (s : State) : State := { s with job := none, ret := some r }

/-- Record a transport event (R12). -/
def recordEvent (e : TransportEvent) (s : State) : State := { s with trace := s.trace ++ [e] }

/-- A `Configure(m)` answered done (R100). -/
def configureDone (m : ConfigMode) (s : State) : State :=
  recordEvent (.cfg m) { s with mode := Mode.ofConfig m }

/-- What a failed request leaves before the procedure ends: a failed `Configure` leaves `mode` unconfigured (R100, R172). -/
def requestFailed (r : Request) (s : State) : State :=
  match r with
  | .configure m => recordEvent (.cfgFail m) { s with mode := .unconf }
  | .transceive b => recordEvent (.xferFail b) s

/-- Whether the procedure at a sequencing position runs on its own, and not inside a host command (log 4). -/
def Job.isAlone : Job → Bool
  | .configuring (.alone _) => true
  | .transceiving (.alone _) => true
  | .transceiving (.writeSlot .alone) => true
  | _ => false

/-- TransportError (R172): the procedure in progress stops at the failed request, nothing already written is undone,
`err_code` is not written, and the command answers `ST_XPORT`. -/
def raiseTransportError (cfg : Config) (j : Job) (s : State) : State :=
  let r := j.request cfg s.sh
  if j.isAlone then finishAlone (.transportError r) (requestFailed r s)
  else respond .xport 0#64 [] (requestFailed r s)

/-- The hardware reset (R200 to R202): every element of state at its reset value, a running command abandoned without a
response. What the outside world sends next is the outside's, and what was observed stays observed; between the last answer of a command
and its response, and inside a command without a request, no reset comes (log 14). -/
def hardReset (s : State) : State :=
  { State.reset with inbox := s.inbox, responses := s.responses, trace := s.trace }

/-- The clear at the entry of an enumeration: `count <- 0; ld <- none; cur_id <- 0` (43_rom_search.md R146). -/
def clearForEnumeration (s : State) : State := { s with reg := [], ld := none, curId := 0#64 }

/-- Take the next input from the outside, if there is one. -/
def fetch (s : State) : Option (Input × State) :=
  match s.inbox with
  | [] => none
  | x :: rest => some (x, { s with inbox := rest })

/-- What `step` answers on a word that spells no row of the opcode table (log 17). -/
def rejectOutcome : Reject → Host.Outcome State Fault Refusal
  | .malformedRequest w => .fault (.malformedRequest w)
  | .notSlotPattern _ w => .refused (.notSlotPattern w)
  | .notRomCommand b => .refused (.notRomCommand b)

end Sys2Proof.Machine
end

