-- ==== Sys2Proof/Machine/Sequencer.lean ====
section
/-! DEFINITION. The sequencer: the procedures of 40_transport.md to 43_rom_search.md, each cut at its transport requests. A
procedure runs from one answer to its next request (`await`) or to its end; `takeAnswer` is that step, and `drain` takes
every answer that stands at the head of the inbox (log 1). -/

namespace Sys2Proof.Machine

/-- RESET up to its first request: `err_code` is cleared before any request (42_bus_control.md R120). -/
def startReset (k : ResetCaller) (s : State) : State :=
  await (.configuring (.resetEntry k)) { s with errCode := .noError }

/-- WRITE_BYTE up to its first slot (41_codec.md R113). -/
def startWriteByte (k : WriteCaller) (v : Byte) (s : State) : State :=
  await (.transceiving (.writeSlot k)) { s with sh := v, bitcnt := 0#4 }

/-- READ_BYTE up to its first slot (R114). -/
def startReadByte (s : State) : State :=
  await (.transceiving .readSlot) { s with sh := 0#8, bitcnt := 0#4 }

/-- SEARCH_PASS up to its first request: every pass begins with a RESET (43_rom_search.md R141). -/
def startPass (o : Owner) (s : State) : State := startReset (.pass o) s

/-- DISCOVER up to its first request (R146). -/
def startDiscover (o : Owner) (s : State) : State := startPass o (clearForEnumeration s)

/-- The end of an enumeration: DISCOVER answers with the registry, INITIALIZE with the status alone (R146, R152). -/
def endEnumeration (o : Owner) (st : Status) (s : State) : State :=
  match o with
  | .discover => respond st s.countData s.reg s
  | .init => respond st 0#64 [] s

/-- After a completed pass and its append: the end test, or the next pass (R148). -/
def nextPass (o : Owner) (s : State) : State :=
  match s.lz with
  | none => endEnumeration o .ok s
  | some p => startPass o { s with ld := some p }

/-- A completed pass: the duplicate test, the capacity test, the append, the end test, in that order (R146, R147, R149,
R181). A registry beyond its capacity, which no run reaches, counts as full (log 9). -/
def passComplete (cfg : Config) (o : Owner) (s : State) : State :=
  if s.curId ∈ s.reg then nextPass o s
  else if cfg.regCapacity ≤ s.reg.length then endEnumeration o .ovf s
  else nextPass o { s with reg := Registry.append s.reg s.curId }

/-- The return of a RESET to its caller (R120, R141, R152). -/
def resetReturn (k : ResetCaller) (ok : Bool) (s : State) : State :=
  match k with
  | .command => respond (boolStatus ok) 0#64 [] s
  | .init => if ok then startDiscover .init s else respond .stFalse 0#64 [] s
  | .pass o => if ok then startWriteByte (.pass o) romSearchByte s else endEnumeration o .stFalse s

/-- The classification at the end of a RESET (R120 to R122). -/
def resetClassified (k : ResetCaller) (c : ResetClass) (s : State) : State :=
  match resetErrCode c with
  | none => resetReturn k true s
  | some e => resetReturn k false { s with errCode := e }

/-- Wire position `pos` up to its first read (R141). -/
def startPosition (o : Owner) (s : State) : State := await (.transceiving (.search o .firstRead)) s

/-- The return of a WRITE_BYTE to its caller (R113, R141). -/
def writeReturn (k : WriteCaller) (s : State) : State :=
  match k with
  | .command _ => respond .ok 0#64 [] s
  | .pass o => startPosition o { s with lz := none, pos := 0#7 }
  | .alone => finishAlone .done s

/-- A write slot was answered; the capture is not looked at (R110, R113). -/
def writeSlotDone (k : WriteCaller) (s : State) : State :=
  let s' := { s with sh := shiftOut s.sh, bitcnt := s.bitcnt + 1#4 }
  if s'.bitcnt.toNat < 8 then await (.transceiving (.writeSlot k)) s' else writeReturn k s'

/-- A read slot of READ_BYTE was answered with bit `t` (R114). -/
def readSlotDone (t : Bool) (s : State) : State :=
  let s' := { s with sh := shiftIn t s.sh, bitcnt := s.bitcnt + 1#4 }
  if s'.bitcnt.toNat < 8 then await (.transceiving .readSlot) s'
  else respond .ok (s'.sh.zeroExtend 64) [] s'

/-- The direction at a discrepancy (R143): replay before `ld`, 1 at `ld`, 0 after it or in a first pass. -/
def discrepancyDirection (ld : Option WirePos) (curId : DeviceId) (pos : Nat) : Bool :=
  match ld with
  | none => false
  | some l => if pos < l.toNat then DeviceId.wireBit curId pos else decide (pos = l.toNat)

/-- The direction taken at a wire position that was not (1,1) (R142, R143). -/
def searchDirection (ld : Option WirePos) (curId : DeviceId) (pos : Nat) (a b : Bool) : Bool :=
  if a != b then a else discrepancyDirection ld curId pos

/-- The readback (1,1): the search anomaly (R145). -/
def searchAnomaly (o : Owner) (s : State) : State :=
  endEnumeration o .stFalse { s with errCode := .noDevices }

/-- The two readback bits of a wire position are known: the choice of R141 to R145, and the write-back. -/
def positionRead (o : Owner) (a b : Bool) (s : State) : State :=
  if a && b then searchAnomaly o s
  else
    let k := s.pos.toNat
    let d := searchDirection s.ld s.curId k a b
    let discrepancy := !a && !b
    await (.transceiving (.search o (.writeBack d)))
      { s with
        lz := bif discrepancy && !d then some (s.pos.setWidth 6) else s.lz
        curId := DeviceId.withBit s.curId k d }

/-- The write-back of a wire position was answered: the next position, or the end of the pass after position 63 (R141). -/
def positionDone (cfg : Config) (o : Owner) (s : State) : State :=
  let s' := { s with pos := s.pos + 1#7 }
  if s'.pos.toNat < 64 then startPosition o s' else passComplete cfg o s'

/-- The result of a one-byte procedure that runs on its own (R101, R110, R111, R121; log 4). -/
def loneResult (cfg : Config) (r : Capture) : LoneSlot → LoneResult
  | .transceive _ => .capture r
  | .resetPulse => .presence (cfg.classifyReset r)
  | .writeBit _ => .done
  | .readBit => .bit (cfg.decodeBit r)

/-- What follows a `Configure` that was done. -/
def configured (cfg : Config) (p : ConfigPoint) (s : State) : State :=
  match p with
  | .resetEntry k => await (.transceiving (.resetPulse k)) s
  | .resetExit k r => resetClassified k (cfg.classifyReset r) s
  | .alone _ => finishAlone .done s

/-- What follows a `Transceive` that brought back `r`. -/
def transceived (cfg : Config) (p : TransceivePoint) (r : Capture) (s : State) : State :=
  match p with
  | .resetPulse k => await (.configuring (.resetExit k r)) s
  | .writeSlot k => writeSlotDone k s
  | .readSlot => readSlotDone (cfg.decodeBit r) s
  | .search o .firstRead => await (.transceiving (.search o (.secondRead (cfg.decodeBit r)))) s
  | .search o (.secondRead a) => positionRead o a (cfg.decodeBit r) s
  | .search o (.writeBack _) => positionDone cfg o s
  | .alone u => finishAlone (loneResult cfg r u) s

/-- Take an answer to a `Configure` (40_transport.md R100): anything but a failure is done, its byte ignored (R79). -/
def configureAnswer (cfg : Config) (p : ConfigPoint) (a : Answer) (s : State) : State :=
  match a with
  | .failure => raiseTransportError cfg (.configuring p) s
  | .captured _ => configured cfg p (configureDone p.operand s)
  | .nothingOrDone => configured cfg p (configureDone p.operand s)

/-- Take an answer to a `Transceive` (R101). -/
def transceiveAnswer (cfg : Config) (p : TransceivePoint) (a : Answer) (s : State) : State :=
  match a with
  | .failure => raiseTransportError cfg (.transceiving p) s
  | .captured c => transceived cfg p (.captured c) (recordEvent (.xfer (p.byteSent cfg s.sh) (.captured c)) s)
  | .nothingOrDone => transceived cfg p .nothing (recordEvent (.xfer (p.byteSent cfg s.sh) .nothing) s)

/-- Take one transport answer. An answer that answers no request ends no command and changes nothing (R83, log 3). The last
answer of a command and its `Respond` are one step, which R14 parts: no hardware reset and no word comes between them (DESIGN
CHOICE, log 14). -/
def takeAnswer (cfg : Config) (a : Answer) (s : State) : State :=
  match s.job with
  | none => s
  | some (.configuring p) => configureAnswer cfg p a s
  | some (.transceiving p) => transceiveAnswer cfg p a s

/-- Take the answers that stand at the head of the queue, for as long as a request is outstanding; what is left of the
queue is the inbox. -/
def drainQueue (cfg : Config) : List Input → State → State
  | .word (.answer w) :: rest, s =>
    if s.busy then drainQueue cfg rest (takeAnswer cfg (answerOfWord w) s)
    else { s with inbox := .word (.answer w) :: rest }
  | queue, s => { s with inbox := queue }

/-- Run the engine on the answers that have arrived (log 1). -/
def drain (cfg : Config) (s : State) : State := drainQueue cfg s.inbox s

/-- Offer a command word to the engine: rejected while busy (10_state.md R31, R176), else accepted and run as far as the
answers that have arrived take it. A command without a request is accepted and answered in one step: no hardware reset and no
word comes between (DESIGN CHOICE, log 14). -/
def runCommand (cfg : Config) (start : State → State) (s : State) : State :=
  if s.busy then rejectWord s else drain cfg (start s)

/-- Call an internal procedure on its own: turned away without any effect while the engine runs something else, since no
other logic may interleave transport calls (log 4, log 5). -/
def runAlone (cfg : Config) (start : State → State) (s : State) : State :=
  if s.busy then s else drain cfg (start s)

end Sys2Proof.Machine
end

