-- ==== Sys2Proof/Machine/Bus.lean ====
section
/-! DEFINITION. The meanings of the bus control rows (42_bus_control.md): RESET and the four ROM commands, and, run on their own,
the reset pulse and the four ROM command bytes (30_encoding.md R77, R80). -/

namespace Sys2Proof.Machine

/-- RESET (R120). -/
def execReset (_arg : Byte) (s : State) : Host.Outcome State Fault Refusal :=
  .next (runCommand hw (startReset .command) s)

/-- SKIP_ROM (R123). -/
def execSkipRom (_arg : Byte) (s : State) : Host.Outcome State Fault Refusal :=
  .next (runCommand hw (startWriteByte (.command .skipRom) romSkipByte) s)

/-- READ_ROM (R124). -/
def execReadRom (_arg : Byte) (s : State) : Host.Outcome State Fault Refusal :=
  .next (runCommand hw (startWriteByte (.command .readRom) romReadByte) s)

/-- SEARCH_ROM (R126). -/
def execSearchRom (_arg : Byte) (s : State) : Host.Outcome State Fault Refusal :=
  .next (runCommand hw (startWriteByte (.command .searchRom) romSearchByte) s)

/-- MATCH_ROM (R125). -/
def execMatchRom (_arg : Byte) (s : State) : Host.Outcome State Fault Refusal :=
  .next (runCommand hw (startWriteByte (.command .matchRom) romMatchByte) s)

/-- RESET_PULSE: one `Transceive(PAT_RESET)`, its capture read by `classifyReset` (R80, R121). -/
def execResetPulse (s : State) : Host.Outcome State Fault Refusal :=
  .next (runAlone hw (await (.transceiving (.alone .resetPulse))) s)

/-- The byte ROM_SKIP, sent as eight slots (R77). -/
def execRomSkip (s : State) : Host.Outcome State Fault Refusal :=
  .next (runAlone hw (startWriteByte .alone romSkipByte) s)

/-- The byte ROM_READ, sent as eight slots (R77). -/
def execRomRead (s : State) : Host.Outcome State Fault Refusal :=
  .next (runAlone hw (startWriteByte .alone romReadByte) s)

/-- The byte ROM_MATCH, sent as eight slots (R77). -/
def execRomMatch (s : State) : Host.Outcome State Fault Refusal :=
  .next (runAlone hw (startWriteByte .alone romMatchByte) s)

/-- The byte ROM_SEARCH, sent as eight slots (R77). -/
def execRomSearch (s : State) : Host.Outcome State Fault Refusal :=
  .next (runAlone hw (startWriteByte .alone romSearchByte) s)

end Sys2Proof.Machine
end

