-- ==== Sys2Proof/Machine/Codec.lean ====
section
/-! DEFINITION. The meanings of the codec rows (41_codec.md): the host commands WRITE_BYTE and READ_BYTE, and the bit slots run on
their own. -/

namespace Sys2Proof.Machine

/-- WRITE_BYTE v (R113). -/
def execWriteByte (v : Byte) (s : State) : Host.Outcome State Fault Refusal :=
  .next (runCommand hw (startWriteByte (.command .writeByte) v) s)

/-- READ_BYTE (R114). -/
def execReadByte (_arg : Byte) (s : State) : Host.Outcome State Fault Refusal :=
  .next (runCommand hw startReadByte s)

/-- WRITE_BIT 1 (R110). -/
def execWriteBit1 (s : State) : Host.Outcome State Fault Refusal :=
  .next (runAlone hw (await (.transceiving (.alone (.writeBit true)))) s)

/-- WRITE_BIT 0 (R110). -/
def execWriteBit0 (s : State) : Host.Outcome State Fault Refusal :=
  .next (runAlone hw (await (.transceiving (.alone (.writeBit false)))) s)

/-- READ_BIT (R111). -/
def execReadBit (s : State) : Host.Outcome State Fault Refusal :=
  .next (runAlone hw (await (.transceiving (.alone .readBit))) s)

end Sys2Proof.Machine
end

