-- ==== Sys2Proof/Machine/Registry.lean ====
section
/-! DEFINITION. The meanings of the registry and error record commands (44_registry.md): they read state and do nothing else. -/

namespace Sys2Proof.Machine

/-- DEVICE_COUNT (R160). -/
def execDeviceCount (_arg : Byte) (s : State) : Host.Outcome State Fault Refusal :=
  .next (runCommand hw (respond .ok s.countData []) s)

/-- DEVICES (R161). -/
def execDevices (_arg : Byte) (s : State) : Host.Outcome State Fault Refusal :=
  .next (runCommand hw (respond .ok s.countData s.reg) s)

/-- The response of DEVICE: the entry, or NotFound where no valid entry stands at the index (R162). -/
def respondEntry (index : Nat) (s : State) : State :=
  match Registry.entry s.reg index with
  | some id => respond .ok id [] s
  | none => respond .notFound 0#64 [] s

/-- DEVICE index (R162). -/
def execDevice (index : Byte) (s : State) : Host.Outcome State Fault Refusal :=
  .next (runCommand hw (respondEntry (indexOf index)) s)

/-- LAST_ERROR (R163). -/
def execLastError (_arg : Byte) (s : State) : Host.Outcome State Fault Refusal :=
  .next (runCommand hw (respond .ok (s.errCode.bits.zeroExtend 64) []) s)

end Sys2Proof.Machine
end

