-- ==== Sys2Proof/Machine/Reserved.lean ====
section
/-! DEFINITION. The meanings of the reserved `OPC` space (30_encoding.md R82): `ST_REJECT`, no state change, no transport request,
busy or not (60_exceptions.md R181). -/

namespace Sys2Proof.Machine

/-- RESERVED_OPC_00 (R82). -/
def execReserved00 (_arg : Byte) (s : State) : Host.Outcome State Fault Refusal :=
  .next (rejectWord s)

/-- RESERVED_OPC_0E (R82). -/
def execReserved0E (_arg : Byte) (s : State) : Host.Outcome State Fault Refusal :=
  .next (rejectWord s)

/-- RESERVED_OPC_0F (R82). -/
def execReserved0F (_arg : Byte) (s : State) : Host.Outcome State Fault Refusal :=
  .next (rejectWord s)

/-- RESERVED_OPC_10_1F (R82). -/
def execReserved10to1F (_x : BitVec 4) (_arg : Byte) (s : State) : Host.Outcome State Fault Refusal :=
  .next (rejectWord s)

/-- RESERVED_OPC_20_3F (R82). -/
def execReserved20to3F (_x : BitVec 5) (_arg : Byte) (s : State) : Host.Outcome State Fault Refusal :=
  .next (rejectWord s)

/-- RESERVED_OPC_40_7F (R82). -/
def execReserved40to7F (_x : BitVec 6) (_arg : Byte) (s : State) : Host.Outcome State Fault Refusal :=
  .next (rejectWord s)

/-- RESERVED_OPC_80_FF (R82). -/
def execReserved80toFF (_x : BitVec 7) (_arg : Byte) (s : State) : Host.Outcome State Fault Refusal :=
  .next (rejectWord s)

end Sys2Proof.Machine
end

