-- ==== Sys2Proof/Machine/Search.lean ====
section
/-! DEFINITION. The meanings of the two enumerating commands (43_rom_search.md). -/

namespace Sys2Proof.Machine

/-- DISCOVER (R146). -/
def execDiscover (_arg : Byte) (s : State) : Host.Outcome State Fault Refusal :=
  .next (runCommand hw (startDiscover .discover) s)

/-- INITIALIZE (R152). -/
def execInit (_arg : Byte) (s : State) : Host.Outcome State Fault Refusal :=
  .next (runCommand hw (startReset .init) s)

end Sys2Proof.Machine
end

