-- ==== Sys2Proof/Machine/Transport.lean ====
section
/-! DEFINITION. The meanings of the transport rows: the two requests (40_transport.md), run on their own, and the four answers
(30_encoding.md R79, R83), taken by whatever request is outstanding. -/

namespace Sys2Proof.Machine

/-- CONFIGURE m (R100). -/
def execConfigure (m : ConfigMode) (s : State) : Host.Outcome State Fault Refusal :=
  .next (runAlone hw (await (.configuring (.alone m))) s)

/-- TRANSCEIVE b (R101). -/
def execTransceive (b : Byte) (s : State) : Host.Outcome State Fault Refusal :=
  .next (runAlone hw (await (.transceiving (.alone (.transceive b)))) s)

/-- XA_CAPTURED c (R79). -/
def execXaCaptured (c : Byte) (s : State) : Host.Outcome State Fault Refusal :=
  .next (takeAnswer hw (.captured c) s)

/-- XA_NOTHING_OR_DONE (R79). -/
def execXaNothingOrDone (s : State) : Host.Outcome State Fault Refusal :=
  .next (takeAnswer hw .nothingOrDone s)

/-- XA_FAILURE (R79, 60_exceptions.md R172). -/
def execXaFailure (_low : Byte) (s : State) : Host.Outcome State Fault Refusal :=
  .next (takeAnswer hw .failure s)

/-- XA_RESERVED: treated as a failure (R83). -/
def execXaReserved (_kind : BitVec 2) (_low : Byte) (s : State) : Host.Outcome State Fault Refusal :=
  .next (takeAnswer hw .failure s)

end Sys2Proof.Machine
end

