-- ==== Sys2Proof/Machine/Dispatch.lean ====
section
/-! DEFINITION. Which meaning each instruction has: one arm for each row of spec/opcode_table.json. -/

namespace Sys2Proof.Machine

def exec (i : Instr) (s : State) : Host.Outcome State Fault Refusal :=
  match i with
  | .init arg => Sys2Proof.Machine.execInit arg s
  | .reset arg => Sys2Proof.Machine.execReset arg s
  | .discover arg => Sys2Proof.Machine.execDiscover arg s
  | .deviceCount arg => Sys2Proof.Machine.execDeviceCount arg s
  | .devices arg => Sys2Proof.Machine.execDevices arg s
  | .device index => Sys2Proof.Machine.execDevice index s
  | .lastError arg => Sys2Proof.Machine.execLastError arg s
  | .writeByte value => Sys2Proof.Machine.execWriteByte value s
  | .readByte arg => Sys2Proof.Machine.execReadByte arg s
  | .skipRom arg => Sys2Proof.Machine.execSkipRom arg s
  | .readRom arg => Sys2Proof.Machine.execReadRom arg s
  | .searchRom arg => Sys2Proof.Machine.execSearchRom arg s
  | .matchRom arg => Sys2Proof.Machine.execMatchRom arg s
  | .reserved00 arg => Sys2Proof.Machine.execReserved00 arg s
  | .reserved0E arg => Sys2Proof.Machine.execReserved0E arg s
  | .reserved0F arg => Sys2Proof.Machine.execReserved0F arg s
  | .reserved10to1F x arg => Sys2Proof.Machine.execReserved10to1F x arg s
  | .reserved20to3F x arg => Sys2Proof.Machine.execReserved20to3F x arg s
  | .reserved40to7F x arg => Sys2Proof.Machine.execReserved40to7F x arg s
  | .reserved80toFF x arg => Sys2Proof.Machine.execReserved80toFF x arg s
  | .configure m => Sys2Proof.Machine.execConfigure m s
  | .transceive b => Sys2Proof.Machine.execTransceive b s
  | .resetPulse => Sys2Proof.Machine.execResetPulse s
  | .writeBit1 => Sys2Proof.Machine.execWriteBit1 s
  | .writeBit0 => Sys2Proof.Machine.execWriteBit0 s
  | .readBit => Sys2Proof.Machine.execReadBit s
  | .xaCaptured c => Sys2Proof.Machine.execXaCaptured c s
  | .xaNothingOrDone => Sys2Proof.Machine.execXaNothingOrDone s
  | .xaFailure low => Sys2Proof.Machine.execXaFailure low s
  | .xaReserved kind low => Sys2Proof.Machine.execXaReserved kind low s
  | .romSkip => Sys2Proof.Machine.execRomSkip s
  | .romRead => Sys2Proof.Machine.execRomRead s
  | .romMatch => Sys2Proof.Machine.execRomMatch s
  | .romSearch => Sys2Proof.Machine.execRomSearch s

end Sys2Proof.Machine
end

