-- ==== Sys2Proof/Machine/Step.lean ====
section
/-! DEFINITION. One step: take the next input. A command word is a whole command, as far as the answers that have arrived take
it; a transport answer is one answer; the hardware reset is an event of its own (log 1). With nothing to take, the engine
waits: idle for a command word (70_reset_and_hazards.md R200), or busy for an answer, without bound (R211). -/

namespace Sys2Proof.Machine

/-- One step of the machine. -/
def step (s : State) : Host.Outcome State Fault Refusal :=
  match fetch s with
  | none => .next s
  | some (.hardReset, s') => .next (hardReset s')
  | some (.word p, s') =>
    match decode p with
    | .ok i => exec i s'
    | .error r => rejectOutcome r

/-- `s` with a table word as the next input, so that the next step runs it (log 19). A width no format has changes nothing. -/
def State.withFetchWord (s : State) (nbits w : Nat) : State :=
  match tableWord nbits w with
  | none => s
  | some p => { s with inbox := .word p :: s.inbox }

end Sys2Proof.Machine
end

