-- ==== Sys2Proof/Machine/Pseudocode.lean ====
section
/-! DEFINITION. The spec's procedures as its pseudocode writes them, run on a supply of answer words: the clear form beside the
sequencer, which cuts the same procedures at their requests so that a command can be suspended. No meaning calls this file:
the statements say that the meanings agree with it. The state a procedure works on keeps the `job` and `inbox` it had. -/

namespace Sys2Proof.Machine

/-- How a procedure ends on a supply of answers: with a result, with a TransportError, or waiting for the answer to a request
`r` that has not come. `rest` is what is left of the supply. -/
inductive Ran (α : Type) where
  | done (a : α) (s : State) (rest : List AnswerWord)
  | raised (s : State) (rest : List AnswerWord)
  | waiting (r : Request) (s : State)

/-- A procedure: from a state and a supply of answers to how it ends. -/
abbrev Proc (α : Type) := State → List AnswerWord → Ran α

namespace Pseudo

/-- Return a value. -/
def ret {α : Type} (a : α) : Proc α := fun s q => .done a s q

/-- One procedure, and then another that is given its result. A TransportError ends both (40_transport.md R106). -/
def andThen {α β : Type} (p : Proc α) (f : α → Proc β) : Proc β := fun s q =>
  match p s q with
  | .done a s' q' => f a s' q'
  | .raised s' q' => .raised s' q'
  | .waiting r s' => .waiting r s'

/-- `r <- v`: write state elements (00_scope.md R11). -/
def write (f : State → State) : Proc Unit := fun s q => .done () (f s) q

/-- Go on with what a state element holds. -/
def read {α β : Type} (f : State → α) (g : α → Proc β) : Proc β := fun s q => g (f s) s q

/-- `proc Configure(m)` (R100). -/
def configure (m : ConfigMode) : Proc Unit := fun s q =>
  match q with
  | [] => .waiting (.configure m) s
  | w :: q' =>
    match answerOfWord w with
    | .failure => .raised (requestFailed (.configure m) s) q'
    | _ => .done () (configureDone m s) q'

/-- `proc Transceive(b)` (R101). -/
def transceive (b : Byte) : Proc Capture := fun s q =>
  match q with
  | [] => .waiting (.transceive b) s
  | w :: q' =>
    match answerOfWord w with
    | .failure => .raised (requestFailed (.transceive b) s) q'
    | .captured c => .done (.captured c) (recordEvent (.xfer b (.captured c)) s) q'
    | .nothingOrDone => .done .nothing (recordEvent (.xfer b .nothing) s) q'

/-- `proc WriteBit(v)` (R110). -/
def writeBit (cfg : Config) (v : Bool) : Proc Unit :=
  andThen (transceive (cfg.writePattern v)) fun _ => ret ()

/-- `proc ReadBit()` (R111). -/
def readBit (cfg : Config) : Proc Bool :=
  andThen (transceive cfg.patRd) fun r => ret (cfg.decodeBit r)

/-- The last `n` of the eight slots of `WriteByte`. -/
def writeSlots (cfg : Config) : Nat → Proc Unit
  | 0 => ret ()
  | n + 1 =>
    read (fun s => s.sh.getLsbD 0) fun v =>
    andThen (writeBit cfg v) fun _ =>
    andThen (write fun s => { s with sh := shiftOut s.sh, bitcnt := s.bitcnt + 1#4 }) fun _ =>
    writeSlots cfg n

/-- `proc WriteByte(v)` (R113). -/
def writeByte (cfg : Config) (v : Byte) : Proc Unit :=
  andThen (write fun s => { s with sh := v, bitcnt := 0#4 }) fun _ => writeSlots cfg 8

/-- The last `n` of the eight slots of `ReadByte`. -/
def readSlots (cfg : Config) : Nat → Proc Unit
  | 0 => ret ()
  | n + 1 =>
    andThen (readBit cfg) fun t =>
    andThen (write fun s => { s with sh := shiftIn t s.sh, bitcnt := s.bitcnt + 1#4 }) fun _ =>
    readSlots cfg n

/-- `proc ReadByte()` (R114). -/
def readByte (cfg : Config) : Proc Byte :=
  andThen (write fun s => { s with sh := 0#8, bitcnt := 0#4 }) fun _ =>
  andThen (readSlots cfg 8) fun _ =>
  read (fun s => s.sh) ret

/-- `proc Reset()` (R120). -/
def reset (cfg : Config) : Proc Bool :=
  andThen (write fun s => { s with errCode := .noError }) fun _ =>
  andThen (configure .resetMode) fun _ =>
  andThen (transceive cfg.patReset) fun r =>
  andThen (configure .dataMode) fun _ =>
  match cfg.classifyReset r with
  | .presence => ret true
  | .noDevices => andThen (write fun s => { s with errCode := .noDevices }) fun _ => ret false
  | .noBus => andThen (write fun s => { s with errCode := .noBus }) fun _ => ret false

/-- The direction `d` of R141, written as its pseudocode writes it. -/
def direction (ld : Option WirePos) (curId : DeviceId) (pos : Nat) (a b : Bool) : Bool :=
  if a != b then a
  else
    match ld with
    | some l =>
      if pos < l.toNat then DeviceId.wireBit curId pos
      else if pos = l.toNat then true
      else false
    | none => false

/-- The last `n` of the 64 wire positions of `SearchPass` (R141): `true` for Complete, `false` for Abort. -/
def positions (cfg : Config) : Nat → Proc Bool
  | 0 => ret true
  | n + 1 =>
    andThen (readBit cfg) fun a =>
    andThen (readBit cfg) fun b =>
    if a && b then andThen (write fun s => { s with errCode := .noDevices }) fun _ => ret false
    else
      read (fun s => direction s.ld s.curId s.pos.toNat a b) fun d =>
      andThen (write fun s => if a == b && d == false then { s with lz := some (s.pos.setWidth 6) } else s) fun _ =>
      andThen (write fun s => { s with curId := DeviceId.withBit s.curId s.pos.toNat d }) fun _ =>
      andThen (writeBit cfg d) fun _ =>
      andThen (write fun s => { s with pos := s.pos + 1#7 }) fun _ =>
      positions cfg n

/-- `proc SearchPass()` (R141). -/
def searchPass (cfg : Config) : Proc Bool :=
  andThen (reset cfg) fun ok =>
  if ok then
    andThen (writeByte cfg romSearchByte) fun _ =>
    andThen (write fun s => { s with lz := none, pos := 0#7 }) fun _ =>
    positions cfg 64
  else ret false

/-- How an enumeration ends (R146), as the status that says so. -/
inductive Ending where
  | complete
  | aborted
  | overflow
  deriving DecidableEq, Repr

/-- The status of an ending (R146, R152). -/
def Ending.status : Ending → Status
  | .complete => .ok
  | .aborted => .stFalse
  | .overflow => .ovf

/-- The append of R147: nothing for an identifier already present; `false` when the registry is full (R149). -/
def store (cfg : Config) : Proc Bool :=
  read (fun s => s) fun s =>
  if s.curId ∈ s.reg then ret true
  else if cfg.regCapacity ≤ s.reg.length then ret false
  else andThen (write fun s => { s with reg := Registry.append s.reg s.curId }) fun _ => ret true

/-- The pass loop of `Discover` (R146). The loop has no bound (R156): every pass takes an answer or waits for one, so a
number of rounds above the length of the supply is never used up: the arm of 0 rounds, which names the first request of the
next pass, is not reached from `discover`. -/
def passes (cfg : Config) : Nat → Proc Ending
  | 0 => fun s _ => .waiting (.configure .resetMode) s
  | n + 1 =>
    andThen (searchPass cfg) fun complete =>
    if complete then
      andThen (store cfg) fun stored =>
      if stored then
        read (fun s => s.lz) fun lz =>
        match lz with
        | none => ret .complete
        | some p => andThen (write fun s => { s with ld := some p }) fun _ => passes cfg n
      else ret .overflow
    else ret .aborted

/-- `proc Discover()` (R146). -/
def discover (cfg : Config) : Proc Ending :=
  andThen (write clearForEnumeration) fun _ => fun s q => passes cfg (q.length + 1) s q

/-- The body of INITIALIZE (R152). -/
def initialise (cfg : Config) : Proc Ending :=
  andThen (reset cfg) fun ok => if ok then discover cfg else ret .aborted

/-- `Respond` at the end of a procedure (R11). -/
def thenRespond {α : Type} (p : Proc α) (answer : α → State → Response) : Proc Response :=
  andThen p fun a => read (fun s => answer a s) ret

/-- The host commands that use the transport, as their rules write them, each with its response (R76); `none` for every
other instruction. -/
def command (cfg : Config) : Instr → Option (Proc Response)
  | .init _ => some (thenRespond (initialise cfg) fun e _ => { status := e.status, data := 0#64, beats := [] })
  | .reset _ => some (thenRespond (reset cfg) fun ok _ => { status := boolStatus ok, data := 0#64, beats := [] })
  | .discover _ => some (thenRespond (discover cfg) fun e s => { status := e.status, data := s.countData, beats := s.reg })
  | .writeByte v => some (thenRespond (writeByte cfg v) fun _ _ => { status := .ok, data := 0#64, beats := [] })
  | .readByte _ => some (thenRespond (readByte cfg) fun v _ => { status := .ok, data := v.zeroExtend 64, beats := [] })
  | .skipRom _ => some (thenRespond (writeByte cfg romSkipByte) fun _ _ => { status := .ok, data := 0#64, beats := [] })
  | .readRom _ => some (thenRespond (writeByte cfg romReadByte) fun _ _ => { status := .ok, data := 0#64, beats := [] })
  | .searchRom _ => some (thenRespond (writeByte cfg romSearchByte) fun _ _ => { status := .ok, data := 0#64, beats := [] })
  | .matchRom _ => some (thenRespond (writeByte cfg romMatchByte) fun _ _ => { status := .ok, data := 0#64, beats := [] })
  | _ => none

end Pseudo

end Sys2Proof.Machine
end

