-- ==== Sys2Proof/Machine/Script.lean ====
section
/-! DEFINITION. The script form of command words (30_encoding.md R86) and its two pseudo-instructions (R87). "The engine knows
neither; they exist only in scripts." The reading of a line's characters is left out (log 23). -/

namespace Sys2Proof.Machine

/-- The `OPC` of a mnemonic, long (R72) or short (R86). -/
def opcOfMnemonic (name : String) : Option Byte :=
  match name with
  | "INITIALIZE" | "INIT" => some 0x01#8
  | "RESET" => some 0x02#8
  | "DISCOVER" | "DISC" => some 0x03#8
  | "DEVICE_COUNT" | "CNT" => some 0x04#8
  | "DEVICES" | "DEVS" => some 0x05#8
  | "DEVICE" | "DEV" => some 0x06#8
  | "LAST_ERROR" | "ERR" => some 0x07#8
  | "WRITE_BYTE" | "WRB" => some 0x08#8
  | "READ_BYTE" | "RDB" => some 0x09#8
  | "SKIP_ROM" | "SKIP" => some 0x0A#8
  | "READ_ROM" | "RDROM" => some 0x0B#8
  | "SEARCH_ROM" | "SRCH" => some 0x0C#8
  | "MATCH_ROM" | "MATCH" => some 0x0D#8
  | _ => none

/-- The word of a script line: `(OPC << 8) | operand`, the operand a number from 0 to 255, 0 when none is written (R86). -/
def assembleLine (name : String) (operand : Option Nat) : Option CommandWord :=
  match opcOfMnemonic name with
  | none => none
  | some opc =>
    let n := operand.getD 0
    if n < 256 then some (opc.zeroExtend 16 <<< 8 ||| BitVec.ofNat 16 n) else none

/-- `SELECT id`: MATCH, then the eight bytes of `id`, byte 0 first (R87). -/
def selectScript (id : DeviceId) : List Instr :=
  .matchRom 0#8 :: (List.range 8).map fun j => .writeByte (DeviceId.byte id j)

/-- `READID`: RDROM, then eight RDB (R87). -/
def readIdScript : List Instr := .readRom 0#8 :: List.replicate 8 (.readByte 0#8)

/-- The DeviceId whose `byte(n)` is the `n`-th byte read (R87). -/
def idOfBytes : List Byte → DeviceId
  | [] => 0#64
  | b :: rest => (idOfBytes rest <<< 8) ||| b.zeroExtend 64

end Sys2Proof.Machine
end

