-- ==== Sys2Proof/Safety.lean ====
section
/-! DEFINITION. What claims are stated in: the inputs the hardware's outside world can send, the invariant of the state, and the
premises about the transport environment. Nothing here is part of the step. -/

namespace Sys2Proof.Safety

open Sys2Proof.Machine

/-- What the outside of the hardware can send: command words, transport answers and the hardware reset (60_exceptions.md
R190); not the model's own channel (log 4). -/
def fromOutside : Input → Bool
  | .word (.host _) => true
  | .word (.answer _) => true
  | .word (.call _ _) => false
  | .word (.romByte _) => false
  | .hardReset => true

/-- The form of the registry: no duplicates (10_state.md R40), at most `REG_CAPACITY` entries (R37). -/
def registryForm (cfg : Config) (reg : List DeviceId) : Prop := reg.Nodup ∧ reg.length ≤ cfg.regCapacity

/-- What holds at a sequencing position: the counters are inside their loops (R24), a RESET in progress has cleared
`err_code` and set the configuration it is in (42_bus_control.md R120), and a search pass after its RESET runs in
`DATA_MODE` with no error, its last zero behind it (43_rom_search.md R141, R144). -/
def jobForm (s : State) : Job → Prop
  | .configuring (.resetEntry _) => s.errCode = .noError
  | .configuring (.resetExit _ _) => s.errCode = .noError ∧ s.mode = .resetMode
  | .configuring (.alone _) => True
  | .transceiving (.resetPulse _) => s.errCode = .noError ∧ s.mode = .resetMode
  | .transceiving (.writeSlot (.pass _)) => s.bitcnt.toNat < 8 ∧ s.errCode = .noError ∧ s.mode = .dataMode
  | .transceiving (.writeSlot _) => s.bitcnt.toNat < 8
  | .transceiving .readSlot => s.bitcnt.toNat < 8
  | .transceiving (.search _ (.writeBack _)) =>
    s.pos.toNat < 64 ∧ s.errCode = .noError ∧ s.mode = .dataMode ∧ ∀ p, s.lz = some p → p.toNat ≤ s.pos.toNat
  | .transceiving (.search _ _) =>
    s.pos.toNat < 64 ∧ s.errCode = .noError ∧ s.mode = .dataMode ∧ ∀ p, s.lz = some p → p.toNat < s.pos.toNat
  | .transceiving (.alone _) => True

/-- The invariant of the machine. -/
structure Inv (s : State) : Prop where
  registry : registryForm hw s.reg
  bitcnt : s.bitcnt.toNat ≤ 8
  pos : s.pos.toNat ≤ 64
  job : ∀ j, s.job = some j → jobForm s j

/-- The number of responses given or still owed to the host: one more while a host command runs (R190). -/
def responsesOwed (s : State) : Nat :=
  s.responses.length + (match s.job with
    | none => 0
    | some j => if j.isAlone then 0 else 1)

/-- A command belongs to an enumeration or to the RESET before one, so that it may still change the registry. -/
def enumerates : Job → Bool
  | .configuring (.resetEntry .command) => false
  | .configuring (.resetExit .command _) => false
  | .configuring (.resetEntry _) => true
  | .configuring (.resetExit _ _) => true
  | .configuring (.alone _) => false
  | .transceiving (.resetPulse .command) => false
  | .transceiving (.resetPulse _) => true
  | .transceiving (.writeSlot (.pass _)) => true
  | .transceiving (.writeSlot _) => false
  | .transceiving .readSlot => false
  | .transceiving (.search _ _) => true
  | .transceiving (.alone _) => false

/-- A RESET procedure, of a command or of an enumeration, is in progress or still to come: `err_code` may be written. -/
def recordsErrors : Job → Bool
  | .configuring (.resetEntry _) => true
  | .configuring (.resetExit _ _) => true
  | .transceiving (.resetPulse _) => true
  | j => enumerates j

/-- The premise the source states of the environment (40_transport.md R103): a capture is the byte sent with some ones
cleared. -/
def WiredAnd (trace : List TransportEvent) : Prop :=
  ∀ b c, TransportEvent.xfer b (.captured c) ∈ trace → c &&& ~~~b = 0#8

/-- The answer word of a capture (R79). -/
def answerWord : Capture → AnswerWord
  | .captured c => 0#2 ++ c
  | .nothing => 0x100#10

/-- Where the devices of the reference bus are in their protocol (95_test_vectors.md part 2). `sub` is 0, 1 or 2: which of
the three slots of a search position. -/
inductive BusPhase where
  | idle
  | command (bits : List Bool)
  | search (p : Nat) (sub : Nat)
  | readRom (p : Nat)
  | matchRom (p : Nat)
  | function
  deriving DecidableEq, Repr

/-- The reference environment of 95_test_vectors.md part 2, which is "not normative": an ideal bus, a premise of claims
about what an enumeration finds (43_rom_search.md R153; log 22). -/
structure Bus where
  devices : List DeviceId
  connected : Bool
  umode : Mode
  phase : BusPhase
  part : List DeviceId
  deriving DecidableEq, Repr

/-- The byte of eight bits, first bit the least significant. -/
def byteOfBits : List Bool → Nat
  | [] => 0
  | b :: rest => b.toNat + 2 * byteOfBits rest

/-- The phase after a ROM command byte. -/
def phaseOfCommand (c : Nat) : BusPhase :=
  if c = 0xF0 then .search 0 0
  else if c = 0x33 then .readRom 0
  else if c = 0x55 then .matchRom 0
  else if c = 0xCC then .function
  else .idle

/-- Whether some device pulls the slot low. -/
def Bus.pulls (bus : Bus) : Bool :=
  match bus.phase with
  | .search p 0 => bus.part.any fun d => !DeviceId.wireBit d p
  | .search p 1 => bus.part.any fun d => DeviceId.wireBit d p
  | .readRom p => bus.part.any fun d => !DeviceId.wireBit d p
  | _ => false

/-- The bus after a slot in which the master wrote `w`. -/
def Bus.afterSlot (bus : Bus) (w : Bool) : Bus :=
  let keep (p : Nat) : List DeviceId := bus.part.filter fun d => DeviceId.wireBit d p == w
  match bus.phase with
  | .command bits =>
    let bits' := bits ++ [w]
    if bits'.length < 8 then { bus with phase := .command bits' }
    else { bus with phase := phaseOfCommand (byteOfBits bits') }
  | .search p 0 => { bus with phase := .search p 1 }
  | .search p 1 => { bus with phase := .search p 2 }
  | .search p _ => { bus with part := keep p, phase := if p + 1 < 64 then .search (p + 1) 0 else .function }
  | .readRom p => { bus with phase := if p + 1 < 64 then .readRom (p + 1) else .function }
  | .matchRom p => { bus with part := keep p, phase := if p + 1 < 64 then .matchRom (p + 1) else .function }
  | .idle => bus
  | .function => bus

/-- The answer of the reference bus to a request, and the bus after it. `umode` `UNCONF`, a `Transceive` of a UART that was never
configured, is not in 95_test_vectors.md part 2, which gives RESET_MODE and DATA_MODE alone: that the byte then comes back as it
was sent and the devices stay as they are is the model's choice (DESIGN CHOICE, log 22). -/
def Bus.answer (bus : Bus) : Request → AnswerWord × Bus
  | .configure m => (0x100#10, { bus with umode := Mode.ofConfig m })
  | .transceive t =>
    if !bus.connected then (answerWord .nothing, bus)
    else
      match bus.umode with
      | .resetMode =>
        (answerWord (.captured (if bus.devices.isEmpty then 0xF0#8 else 0xE0#8)),
          { bus with phase := .command [], part := bus.devices })
      | .dataMode =>
        (answerWord (.captured (if t = 0xFF#8 ∧ bus.pulls then 0xFE#8 else t)), bus.afterSlot (t == 0xFF#8))
      | .unconf => (answerWord (.captured t), bus)

/-- The engine and the reference bus together: as long as a request is outstanding, at most `n` times, the bus answers it
and the engine takes the answer. -/
def serve (cfg : Config) : Nat → Bus → State → State
  | 0, _, s => s
  | n + 1, bus, s =>
    match s.job with
    | none => s
    | some j =>
      let (w, bus') := bus.answer (j.request cfg s.sh)
      serve cfg n bus' (takeAnswer cfg (answerOfWord w) s)

/-- Discovery order (43_rom_search.md R154): at the first wire position where they differ, `a` has 0 and `b` has 1. -/
def wireBefore (a b : DeviceId) : Prop :=
  ∃ k < 64, (∀ j < k, DeviceId.wireBit a j = DeviceId.wireBit b j) ∧
    DeviceId.wireBit a k = false ∧ DeviceId.wireBit b k = true

end Sys2Proof.Safety
end

