-- ==== Sys2Proof/Certificates/Slice0/Obligations.lean ====
section
/-! DEFINITION. The statements for the provers, with the vocabulary they share. Each docstring names the rule of spec/ it
formalises; a value that is the model's own choice is named with its log entry. -/

namespace Sys2Proof.Claims

open Sys2Proof.Machine Sys2Proof.Safety

/-- The inputs of a supply of answer words. -/
def answers (ws : List AnswerWord) : List Input := ws.map fun w => .word (.answer w)

/-- The inputs of the answers that bring back these captures (a `Configure` reads each of them as done, R79). -/
def brings (rs : List Capture) : List Input := answers (rs.map answerWord)

/-- A capture that reads as a 1: `Captured(0xFF)`, and no other (41_codec.md R112). -/
def readsOne (r : Capture) : Bool := r == .captured 0xFF#8

/-- The table of 42_bus_control.md R121, with the status and the error code of R120 for each class. -/
def resetOutcome : Capture → Status × ErrCode
  | .nothing => (.stFalse, .noBus)
  | .captured c => if c = 0xF0#8 then (.stFalse, .noDevices) else (.ok, .noError)

/-- The byte a write slot sends (30_encoding.md R80). -/
def slotByte (v : Bool) : Byte := if v then 0xFF#8 else 0x00#8

/-- The events of a byte sent as eight slots, bit 0 first (R81), with what each brought back. -/
def slotEvents (v : Byte) (rs : List Capture) : List TransportEvent :=
  List.zipWith (fun i r => .xfer (slotByte (v.getLsbD i)) r) (List.range 8) rs

/-- The byte that a host command sends as eight slots (R113, R123 to R126). -/
def sends : Instr → Option Byte
  | .writeByte v => some v
  | .skipRom _ => some 0xCC#8
  | .readRom _ => some 0x33#8
  | .searchRom _ => some 0xF0#8
  | .matchRom _ => some 0x55#8
  | _ => none

/-- The byte that a ROM command row sends as eight slots (R77). -/
def romRowByte : Instr → Option Byte
  | .romSkip => some 0xCC#8
  | .romRead => some 0x33#8
  | .romMatch => some 0x55#8
  | .romSearch => some 0xF0#8
  | _ => none

/-- The rows of the reserved `OPC` space (R82). -/
def isReserved : Instr → Bool
  | .reserved00 _ | .reserved0E _ | .reserved0F _ => true
  | .reserved10to1F _ _ | .reserved20to3F _ _ | .reserved40to7F _ _ | .reserved80toFF _ _ => true
  | _ => false

/-- The host commands of the codec and the four ROM commands (41_codec.md, 42_bus_control.md). -/
def isByteTransfer : Instr → Bool
  | .writeByte _ | .readByte _ | .skipRom _ | .readRom _ | .searchRom _ | .matchRom _ => true
  | _ => false

/-- The commands that only read (44_registry.md R166). -/
def isReadOnly : Instr → Bool
  | .deviceCount _ | .devices _ | .device _ | .lastError _ => true
  | _ => false

/-- The commands that reset the bus (R165). -/
def resetsBus : Instr → Bool
  | .reset _ | .discover _ | .init _ => true
  | _ => false

/-- The commands that run an enumeration (R165). -/
def runsEnumeration : Instr → Bool
  | .discover _ | .init _ => true
  | _ => false

/-- The rows that are internal to the engine (R73; log 4). -/
def isInternal : Instr → Bool
  | .configure _ | .transceive _ | .resetPulse | .writeBit1 | .writeBit0 | .readBit => true
  | .romSkip | .romRead | .romMatch | .romSearch => true
  | _ => false

/-- The thirteen rows of 30_encoding.md R72: `OPC << 8`, and the command of an `ARG`. -/
def commandRows : List (CommandWord × (Byte → Instr)) :=
  [(0x0100#16, .init), (0x0200#16, .reset), (0x0300#16, .discover), (0x0400#16, .deviceCount),
   (0x0500#16, .devices), (0x0600#16, .device), (0x0700#16, .lastError), (0x0800#16, .writeByte),
   (0x0900#16, .readByte), (0x0A00#16, .skipRom), (0x0B00#16, .readRom), (0x0C00#16, .searchRom),
   (0x0D00#16, .matchRom)]

/-- The mnemonics of R72, each with its short form of R86 where it has one, and their `OPC`. -/
def scriptRows : List (List String × Byte) :=
  [(["INITIALIZE", "INIT"], 0x01#8), (["RESET"], 0x02#8), (["DISCOVER", "DISC"], 0x03#8),
   (["DEVICE_COUNT", "CNT"], 0x04#8), (["DEVICES", "DEVS"], 0x05#8), (["DEVICE", "DEV"], 0x06#8),
   (["LAST_ERROR", "ERR"], 0x07#8), (["WRITE_BYTE", "WRB"], 0x08#8), (["READ_BYTE", "RDB"], 0x09#8),
   (["SKIP_ROM", "SKIP"], 0x0A#8), (["READ_ROM", "RDROM"], 0x0B#8), (["SEARCH_ROM", "SRCH"], 0x0C#8),
   (["MATCH_ROM", "MATCH"], 0x0D#8)]

/-- One position of a search pass as the environment answers it: the two reads and the write-back. -/
structure PositionAnswers where
  first : Capture
  second : Capture
  writeBack : Capture

/-- Everything a pass is answered: the three requests of its RESET, the eight slots of the Search ROM byte, and then three
slots for each position (43_rom_search.md R141). -/
def passCaptures (r0 r1 r2 : Capture) (rom : List Capture) (ps : List PositionAnswers) : List Capture :=
  [r0, r1, r2] ++ rom ++ ps.flatMap fun p => [p.first, p.second, p.writeBack]

/-- The positions of a pass in which every participant agrees, and agrees with `id` (R142): the first read is the bit, the
second its complement. -/
def agreesWith (id : DeviceId) (ps : List PositionAnswers) : Prop :=
  ps.length = 64 ∧ ∀ k (h : k < ps.length),
    readsOne (ps[k]'h).first = DeviceId.wireBit id k ∧ readsOne (ps[k]'h).second = !DeviceId.wireBit id k

/-- How the transport configuration follows from an event of the trace (10_state.md R36). -/
def modeAfter (m : Mode) : TransportEvent → Mode
  | .cfg .resetMode => .resetMode
  | .cfg .dataMode => .dataMode
  | .cfgFail _ => .unconf
  | .xfer _ _ => m
  | .xferFail _ => m

/-- The header data that carries a number of entries (R74, R76). -/
def countOf (reg : List DeviceId) : BitVec 64 := (BitVec.ofNat 9 reg.length).zeroExtend 64

/-- The response that ends an enumeration (R76, R146, R152). -/
def enumerationResponse (o : Owner) (st : Status) (reg : List DeviceId) : Response :=
  match o with
  | .discover => { status := st, data := countOf reg, beats := reg }
  | .init => { status := st, data := 0#64, beats := [] }

/-- The event a failed request leaves in the trace (R12). -/
def failureEvent : Request → TransportEvent
  | .configure m => .cfgFail m
  | .transceive b => .xferFail b

/-- The event an answered request leaves in the trace (R12): a `Configure` that was answered is done. -/
def answeredEvent (r : Capture) : Request → TransportEvent
  | .configure m => .cfg m
  | .transceive b => .xfer b r

/-- The state element `mode` after a failed request (R171). -/
def modeAfterFailure (m : Mode) : Request → Mode
  | .configure _ => .unconf
  | .transceive _ => m

/-- That every byte of the registry space reads as it did (20_memory.md R50). -/
def sameBytes (s t : State) : Prop := ∀ a, Registry.memByte t.reg a = Registry.memByte s.reg a

/-- That the search state is as it was (10_state.md R25). -/
def sameSearchState (s t : State) : Prop := t.ld = s.ld ∧ t.curId = s.curId ∧ t.lz = s.lz ∧ t.pos = s.pos

/-- That `u` is `t` but for the search state, which has no specified value once an enumeration has ended (R25). -/
def upToSearchState (t u : State) : Prop := u = { t with ld := u.ld, lz := u.lz, curId := u.curId, pos := u.pos }

/-- The row of an answer that brings this back (R79). -/
def answerRow : Capture → Instr
  | .captured c => .xaCaptured c
  | .nothing => .xaNothingOrDone

/-- Whether an event is a write-1 slot or the release of a read slot (R80). -/
def wroteOne : TransportEvent → Bool
  | .xfer b _ => b == 0xFF#8
  | .xferFail b => b == 0xFF#8
  | .cfg _ => false
  | .cfgFail _ => false

/-- A response without data or beats (R74, R76). -/
def bare (st : Status) : Response := { status := st, data := 0#64, beats := [] }

/-- A word that is not accepted: a reserved `OPC` (R82), or the engine is busy (R31). -/
def notAccepted (s : State) (w : CommandWord) : Prop :=
  s.busy = true ∨ (w.extractLsb' 8 8 : Byte) = 0x00#8 ∨ 0x0E#8 ≤ (w.extractLsb' 8 8 : Byte)

/-- How a command ends, by the spec's pseudocode, and what `exec` then answers: the same registers, the same trace, the same
response, the unused answers left in the inbox. -/
def agreesWithPseudocode (rest : List Input) (outcome : Host.Outcome State Fault Refusal) :
    Ran Response → Prop
  | .done r t q => outcome = .next { t with inbox := answers q ++ rest, responses := t.responses ++ [r] }
  | .raised t q =>
    outcome = .next { t with
      inbox := answers q ++ rest
      responses := t.responses ++ [bare .xport] }
  | .waiting _ _ => True

end Sys2Proof.Claims

open Sys2Proof Sys2Proof.Machine Sys2Proof.Safety Sys2Proof.Claims

/-! ### Encodings (30_encoding.md) -/

/-- Decoding the word of a well-formed instruction gives it back, for every row of the table and every operand. -/
def Obligations.DecodeOfEncode : Prop :=
  ∀ i : Instr, i.wellFormed = true → decode (encode i) = .ok i

/-- The other direction: a word that decodes is the word of what it decodes to, which is well-formed. -/
def Obligations.EncodeOfDecode : Prop :=
  ∀ (p : PortWord) (i : Instr), decode p = .ok i → i.wellFormed = true ∧ encode i = p

/-- R72: "A command is selected by `cmd & 0xFF00 == OPC << 8`", with `ARG` its low byte. -/
def Obligations.CommandSelectedByOpc : Prop :=
  ∀ row ∈ commandRows, ∀ w : CommandWord, w &&& 0xFF00#16 = row.1 ↔ decodeHost w = row.2 (w.setWidth 8)

/-- Words written out from the spec's encodings: V3, V6, V8 and V11 of 95_test_vectors.md, R78, R79, R77, R80. -/
def Obligations.SampleWordsDecode : Prop :=
  decode (.host 0x0300#16) = .ok (.discover 0#8) ∧ decode (.host 0x0601#16) = .ok (.device 1#8) ∧
  decode (.host 0x0844#16) = .ok (.writeByte 0x44#8) ∧ decode (.host 0x8000#16) = .ok (.reserved80toFF 0#7 0#8) ∧
  decode (.call .plain 0x001#9) = .ok (.configure .dataMode) ∧ decode (.call .plain 0x155#9) = .ok (.transceive 0x55#8) ∧
  decode (.call .readBit 0x1FF#9) = .ok .readBit ∧ decode (.answer 0x0FE#10) = .ok (.xaCaptured 0xFE#8) ∧
  decode (.answer 0x100#10) = .ok .xaNothingOrDone ∧ decode (.answer 0x200#10) = .ok (.xaFailure 0#8) ∧
  decode (.answer 0x3FF#10) = .ok (.xaReserved 3#2 0xFF#8) ∧ decode (.romByte 0x55#8) = .ok .romMatch

/-- R82: a word with a reserved `OPC` is answered `ST_REJECT` with `data` = 0; no state changes and no transport request is
issued, whether the engine is busy or not. -/
def Obligations.ReservedWordRejected : Prop :=
  ∀ (s : State) (w : CommandWord) (rest : List Input),
    s.inbox = .word (.host w) :: rest →
    ((w.extractLsb' 8 8 : Byte) = 0x00#8 ∨ 0x0E#8 ≤ (w.extractLsb' 8 8 : Byte)) →
    step s = .next { s with
      inbox := rest
      responses := s.responses ++ [{ status := .reject, data := 0#64, beats := [] }] }

/-- R82, row by row: every reserved row completes, by rejecting. -/
def Obligations.ReservedRowsReject : Prop :=
  ∀ (i : Instr) (s : State), isReserved i = true →
    exec i s = .next { s with responses := s.responses ++ [{ status := .reject, data := 0#64, beats := [] }] }

/-- R86 and R87, from a line's mnemonic and number on (log 23): for every mnemonic, long and short, a line assembles to
`(OPC << 8) | operand`, with operand 0 when none is written, and an operand above 255 to nothing; `SELECT id` is MATCH and the
eight bytes of `id`, byte 0 first; `READID` is RDROM and eight RDB, and its result the identifier whose `byte(n)` is the `n`-th
byte read. -/
def Obligations.ScriptForms : Prop :=
  (∀ row ∈ scriptRows, ∀ name ∈ row.1,
    assembleLine name none = some (row.2 ++ 0#8) ∧
    (∀ n : Nat, n < 256 → assembleLine name (some n) = some (row.2 ++ BitVec.ofNat 8 n)) ∧
    (∀ n : Nat, 256 ≤ n → assembleLine name (some n) = none)) ∧
  readIdScript = [.readRom 0#8, .readByte 0#8, .readByte 0#8, .readByte 0#8, .readByte 0#8,
    .readByte 0#8, .readByte 0#8, .readByte 0#8, .readByte 0#8] ∧
  (∀ bs : List Byte, bs.length = 8 → ∀ n (h : n < bs.length), DeviceId.byte (idOfBytes bs) n = bs[n]'h) ∧
  (∀ id : DeviceId, selectScript id = .matchRom 0#8 ::
    [.writeByte (DeviceId.byte id 0), .writeByte (DeviceId.byte id 1), .writeByte (DeviceId.byte id 2),
     .writeByte (DeviceId.byte id 3), .writeByte (DeviceId.byte id 4), .writeByte (DeviceId.byte id 5),
     .writeByte (DeviceId.byte id 6), .writeByte (DeviceId.byte id 7)]) ∧
  (∀ id : DeviceId, idOfBytes ((List.range 8).map fun n => DeviceId.byte id n) = id)

/-! ### The step -/

/-- A step runs the instruction that the next word decodes to, on the state that has taken the word. -/
def Obligations.StepRunsDecoded : Prop :=
  ∀ (s : State) (p : PortWord) (rest : List Input) (i : Instr),
    s.inbox = .word p :: rest → decode p = .ok i → step s = exec i { s with inbox := rest }

/-- R200, R201: the hardware reset, in any state, also while a command runs: every element of state at its reset value, the
registry unreadable, no response, no transport request. -/
def Obligations.HardResetAtAnyTime : Prop :=
  ∀ (s : State) (rest : List Input), s.inbox = .hardReset :: rest →
    ∃ t, step s = .next t ∧ t.busy = false ∧ t.mode = .unconf ∧ t.errCode = .noError ∧ t.count = 0#9 ∧
      (∀ a, Registry.memByte t.reg a = none) ∧ t.ld = none ∧ t.lz = none ∧ t.curId = 0#64 ∧ t.pos = 0#7 ∧ t.sh = 0#8 ∧
      t.bitcnt = 0#4 ∧ t.request hw = none ∧ t.responses = s.responses ∧ t.trace = s.trace

/-- What the hardware reset leaves of the model's own fields (log 14): the inputs that come after it, and the histories; `ret`
starts again. -/
def Obligations.HardResetKeepsTheOutside : Prop :=
  ∀ (s : State) (rest : List Input), s.inbox = .hardReset :: rest →
    step s = .next { State.reset with inbox := rest, responses := s.responses, trace := s.trace }

/-- R211: with a request outstanding and no answer, the engine stays as it is, busy, without bound. -/
def Obligations.WaitsWithoutBound : Prop :=
  ∀ (s : State) (n : Nat), s.inbox = [] → s.busy = true → core.run n s = .next s

/-- R176: a word that is not accepted, for its `OPC` or because the engine is busy, changes no state and causes no transport
request; the command in progress is as it was. -/
def Obligations.RejectedWordDisturbsNothing : Prop :=
  ∀ (s : State) (w : CommandWord) (rest : List Input),
    s.inbox = .word (.host w) :: rest → notAccepted s w →
    ∃ t, step s = .next t ∧ t = { s with inbox := rest, responses := s.responses ++ [bare .reject] } ∧
      t.request hw = s.request hw

/-- Nothing the outside of the hardware can send makes the machine stop. -/
def Obligations.OutsideNeverStopsTheMachine : Prop :=
  ∀ s : State, (∀ x ∈ s.inbox, fromOutside x = true) →
    ∃ t, step s = .next t ∧ ∀ x ∈ t.inbox, fromOutside x = true

/-- It makes no difference whether the answers are there when the command is accepted or come one by one afterwards: running
the command on the answers that have come is the same as taking them in later steps (log 1). -/
def Obligations.LateAnswersMakeNoDifference : Prop :=
  ∀ (s : State) (w : CommandWord) (ws : List AnswerWord), s.inbox = [.word (.host w)] →
    ∃ u t k, step s = .next u ∧ step { s with inbox := .word (.host w) :: answers ws } = .next t ∧
      k ≤ ws.length ∧ core.run k { u with inbox := answers ws } = .next t

/-! ### The invariant -/

/-- The invariant holds after a hardware reset. -/
def Obligations.InvAtReset : Prop := Inv State.reset

/-- Every step keeps the invariant: no duplicates in the registry (R40), at most `REG_CAPACITY` entries (R37), the loop
counters inside their loops (R24), the configuration and the error record that a RESET or a search pass in progress relies on
(R120, R141), the recorded zero behind the position (R144). -/
def Obligations.StepKeepsInv : Prop :=
  ∀ s t : State, Inv s → step s = .next t → Inv t

/-! ### The commands complete, and what they then leave -/

/-- R120, R121, R173: RESET, however its requests are answered. Three answers: the table of R121 decides the status and
`err_code`. A failure of the first, second or third request: `err_code` keeps the clear at entry, and the capture of a RESET
whose second `Configure` fails is never classified. Nothing else is written. -/
def Obligations.ResetCompletes : Prop :=
  ∀ (arg : Byte) (s : State) (r0 r r2 : Capture) (low : Byte) (rest : List Input), s.job = none →
    let ended (m : Mode) (e : ErrCode) (st : Status) (es : List TransportEvent) : State := { s with
      mode := m
      errCode := e
      inbox := rest
      responses := s.responses ++ [bare st]
      trace := s.trace ++ es }
    (s.inbox = brings [r0, r, r2] ++ rest → exec (.reset arg) s = .next
      (ended .dataMode (resetOutcome r).2 (resetOutcome r).1 [.cfg .resetMode, .xfer 0xF0#8 r, .cfg .dataMode])) ∧
    (s.inbox = answers [2#2 ++ low] ++ rest → exec (.reset arg) s = .next
      (ended .unconf .noError .xport [.cfgFail .resetMode])) ∧
    (s.inbox = answers [answerWord r0, 2#2 ++ low] ++ rest → exec (.reset arg) s = .next
      (ended .resetMode .noError .xport [.cfg .resetMode, .xferFail 0xF0#8])) ∧
    (s.inbox = answers [answerWord r0, answerWord r, 2#2 ++ low] ++ rest → exec (.reset arg) s = .next
      (ended .unconf .noError .xport [.cfg .resetMode, .xfer 0xF0#8 r, .cfgFail .dataMode]))

/-- R113, R123 to R127: WRITE_BYTE and the four ROM commands. Eight slots answered with anything: the slots of the byte, least
significant bit first, and `ST_OK`. A failure at a slot: the slots before it have gone out, no later one is sent, `ST_XPORT`.
Nothing else is written but the sequencing registers `sh` and `bitcnt`. -/
def Obligations.ByteSendingCommandsComplete : Prop :=
  ∀ (i : Instr) (v : Byte) (s : State) (rs : List Capture) (rest : List Input), sends i = some v → s.job = none →
    (rs.length = 8 → s.inbox = brings rs ++ rest → ∃ sh bitcnt, exec i s = .next { s with
      sh := sh
      bitcnt := bitcnt
      inbox := rest
      responses := s.responses ++ [bare .ok]
      trace := s.trace ++ slotEvents v rs }) ∧
    (∀ low : Byte, rs.length < 8 → s.inbox = brings rs ++ .word (.answer (2#2 ++ low)) :: rest →
      ∃ sh bitcnt, exec i s = .next { s with
        sh := sh
        bitcnt := bitcnt
        inbox := rest
        responses := s.responses ++ [bare .xport]
        trace := s.trace ++ slotEvents v rs ++ [.xferFail (slotByte (v.getLsbD rs.length))] })

/-- R114: READ_BYTE. Eight slots answered with anything: bit `k` of the byte is what the `k`-th capture reads as (R112). A
failure at a slot: no partial byte, `ST_XPORT` without data. -/
def Obligations.ReadByteCompletes : Prop :=
  ∀ (arg : Byte) (s : State) (rs : List Capture) (rest : List Input), s.job = none →
    (rs.length = 8 → s.inbox = brings rs ++ rest →
      ∃ (v : Byte) (sh : Byte) (bitcnt : BitVec 4),
        (∀ k (h : k < rs.length), v.getLsbD k = readsOne (rs[k]'h)) ∧
        exec (.readByte arg) s = .next { s with
          sh := sh
          bitcnt := bitcnt
          inbox := rest
          responses := s.responses ++ [{ status := .ok, data := v.zeroExtend 64, beats := [] }]
          trace := s.trace ++ rs.map (.xfer 0xFF#8) }) ∧
    (∀ low : Byte, rs.length < 8 → s.inbox = brings rs ++ .word (.answer (2#2 ++ low)) :: rest →
      ∃ sh bitcnt, exec (.readByte arg) s = .next { s with
        sh := sh
        bitcnt := bitcnt
        inbox := rest
        responses := s.responses ++ [bare .xport]
        trace := s.trace ++ rs.map (.xfer 0xFF#8) ++ [.xferFail 0xFF#8] })

/-- R118: against an environment that gives the eight bits of a WRITE_BYTE back as the captures of the next eight read slots,
the READ_BYTE that follows returns the byte written. -/
def Obligations.LoopbackRoundTrip : Prop :=
  ∀ (v arg : Byte) (s : State) (ws : List Capture) (rest : List Input),
    s.job = none → ws.length = 8 → s.inbox = brings ws ++ rest →
    ∃ t es, exec (.writeByte v) s = .next t ∧ t.trace = s.trace ++ es ∧
      ∀ (rs : List Capture) (more : List Input), rs.map readsOne = es.map wroteOne →
        ∃ u, exec (.readByte arg) { t with inbox := brings rs ++ more } = .next u ∧
          u.responses = t.responses ++ [{ status := .ok, data := v.zeroExtend 64, beats := [] }]

/-- R146, R153 for one device: DISCOVER on a pass in which the participants agree everywhere finds that identifier, whatever it
is, in one pass of 203 requests, and answers with it. -/
def Obligations.DiscoverFindsTheOnlyDevice : Prop :=
  ∀ (arg : Byte) (id : DeviceId) (s : State) (r0 r1 r2 : Capture) (rom : List Capture) (ps : List PositionAnswers)
    (rest : List Input),
    s.job = none → (resetOutcome r1).1 = .ok → rom.length = 8 → agreesWith id ps →
    s.inbox = brings (passCaptures r0 r1 r2 rom ps) ++ rest →
    ∃ t, exec (.discover arg) s = .next t ∧ t.busy = false ∧ t.reg = [id] ∧ t.count = 1#9 ∧ t.errCode = .noError ∧
      t.mode = .dataMode ∧ t.inbox = rest ∧ t.ret = s.ret ∧
      t.responses = s.responses ++ [{ status := .ok, data := 1#64, beats := [id] }] ∧
      ∃ es, t.trace = s.trace ++ es ∧ es.length = 203

/-- R152: INITIALIZE on one device: a RESET, then the enumeration, 206 requests; `ST_OK` and no beats. -/
def Obligations.InitializeFindsTheOnlyDevice : Prop :=
  ∀ (arg : Byte) (id : DeviceId) (s : State) (q0 q1 q2 r0 r1 r2 : Capture) (rom : List Capture)
    (ps : List PositionAnswers) (rest : List Input),
    s.job = none → (resetOutcome q1).1 = .ok → (resetOutcome r1).1 = .ok → rom.length = 8 → agreesWith id ps →
    s.inbox = brings ([q0, q1, q2] ++ passCaptures r0 r1 r2 rom ps) ++ rest →
    ∃ t, exec (.init arg) s = .next t ∧ t.busy = false ∧ t.reg = [id] ∧ t.errCode = .noError ∧
      t.mode = .dataMode ∧ t.inbox = rest ∧ t.ret = s.ret ∧
      t.responses = s.responses ++ [{ status := .ok, data := 0#64, beats := [] }] ∧
      ∃ es, t.trace = s.trace ++ es ∧ es.length = 206

/-- R152, R209: INITIALIZE whose first RESET finds no bus or no device does not enumerate: the registry and the search state
stay as they are. -/
def Obligations.InitializeStopsAtFailedReset : Prop :=
  ∀ (arg : Byte) (s : State) (r0 r r2 : Capture) (rest : List Input),
    s.job = none → (resetOutcome r).1 = .stFalse → s.inbox = brings [r0, r, r2] ++ rest →
    exec (.init arg) s = .next { s with
      mode := .dataMode
      errCode := (resetOutcome r).2
      inbox := rest
      responses := s.responses ++ [{ status := .stFalse, data := 0#64, beats := [] }]
      trace := s.trace ++ [.cfg .resetMode, .xfer 0xF0#8 r, .cfg .dataMode] }

/-- R160, R161, R163: the idle engine answers DEVICE_COUNT, DEVICES and LAST_ERROR from its state and changes nothing else. -/
def Obligations.RegistryReadsComplete : Prop :=
  ∀ (arg : Byte) (s : State), s.job = none →
    let answered (data : BitVec 64) (beats : List DeviceId) : State :=
      { s with responses := s.responses ++ [{ status := .ok, data := data, beats := beats }] }
    exec (.deviceCount arg) s = .next (answered (s.count.zeroExtend 64) []) ∧
    exec (.devices arg) s = .next (answered (s.count.zeroExtend 64) s.reg) ∧
    exec (.lastError arg) s = .next (answered (s.errCode.bits.zeroExtend 64) [])

/-- R162: DEVICE answers the entry at an index below `count`, and NotFound at any other. -/
def Obligations.DeviceCompletes : Prop :=
  ∀ (index : Byte) (s : State), s.job = none → s.reg.length ≤ 256 →
    (∀ h : index.toNat < s.reg.length, index.zeroExtend 9 < s.count ∧
      exec (.device index) s =
        .next { s with responses := s.responses ++ [{ status := .ok, data := s.reg[index.toNat]'h, beats := [] }] }) ∧
    (s.reg.length ≤ index.toNat → ¬ index.zeroExtend 9 < s.count ∧
      exec (.device index) s =
        .next { s with responses := s.responses ++ [{ status := .notFound, data := 0#64, beats := [] }] })

/-- R100: CONFIGURE run on its own, answered done or answered failure; the request is issued also when `mode` is already
the one asked for. That a procedure runs on its own, and `ret`, are the model's choice (log 4). -/
def Obligations.ConfigureCompletes : Prop :=
  ∀ (m : ConfigMode) (s : State) (r : Capture) (low : Byte) (rest : List Input), s.job = none →
    (s.inbox = brings [r] ++ rest → exec (.configure m) s = .next { s with
      mode := modeAfter s.mode (.cfg m), ret := some .done, inbox := rest, trace := s.trace ++ [.cfg m] }) ∧
    (s.inbox = answers [2#2 ++ low] ++ rest → exec (.configure m) s = .next { s with
      mode := .unconf, ret := some (.transportError (.configure m)), inbox := rest, trace := s.trace ++ [.cfgFail m] })

/-- R101, R110, R111, R80: TRANSCEIVE and the four slot rows run on their own: one byte out, and what the row makes of the
capture. `ret` is the model's choice (log 4). -/
def Obligations.SlotRowsComplete : Prop :=
  ∀ (s : State) (r : Capture) (rest : List Input), s.job = none → s.inbox = brings [r] ++ rest →
    let ran (b : Byte) (result : LoneResult) : State :=
      { s with ret := some result, inbox := rest, trace := s.trace ++ [.xfer b r] }
    (∀ b, exec (.transceive b) s = .next (ran b (.capture r))) ∧
    exec .resetPulse s = .next (ran 0xF0#8 (.presence (match r with
      | .nothing => .noBus
      | .captured c => if c = 0xF0#8 then .noDevices else .presence))) ∧
    exec .writeBit1 s = .next (ran 0xFF#8 .done) ∧
    exec .writeBit0 s = .next (ran 0x00#8 .done) ∧
    exec .readBit s = .next (ran 0xFF#8 (.bit (readsOne r)))

/-- R77: a ROM command byte run on its own is its eight slots, least significant bit first. `ret` is the model's choice
(log 4). -/
def Obligations.RomBytesComplete : Prop :=
  ∀ (i : Instr) (v : Byte) (s : State) (rs : List Capture) (rest : List Input),
    romRowByte i = some v → s.job = none → rs.length = 8 → s.inbox = brings rs ++ rest →
    ∃ sh bitcnt, exec i s = .next { s with
      sh := sh
      bitcnt := bitcnt
      ret := some .done
      inbox := rest
      trace := s.trace ++ slotEvents v rs }

/-! ### The answers of the transport (30_encoding.md R79, R83; 60_exceptions.md R172) -/

/-- R79: an answer that is no failure is taken by the outstanding request, which it ends: exactly one event, for that request,
with what came back; a `Configure` sets `mode`, a `Transceive` does not. -/
def Obligations.AnswerTakenByItsRequest : Prop :=
  ∀ (s : State) (j : Job), s.job = some j →
    (∀ c, ∃ t, exec (.xaCaptured c) s = .next t ∧ t.inbox = s.inbox ∧
      t.trace = s.trace ++ [answeredEvent (.captured c) (j.request hw s.sh)] ∧
      t.mode = modeAfter s.mode (answeredEvent (.captured c) (j.request hw s.sh))) ∧
    (∃ t, exec .xaNothingOrDone s = .next t ∧ t.inbox = s.inbox ∧
      t.trace = s.trace ++ [answeredEvent .nothing (j.request hw s.sh)] ∧
      t.mode = modeAfter s.mode (answeredEvent .nothing (j.request hw s.sh)))

/-- R172, R106: a failure, or an answer row outside the table (R83), ends the command at the request it answers: `ST_XPORT`
without data or beats, the engine idle with no request outstanding, `mode` unconfigured if it was a `Configure`, `err_code` and
every other element as it was; of the search state that is said outside an enumeration alone (R25). -/
def Obligations.FailureEndsTheCommand : Prop :=
  ∀ (s : State) (j : Job) (kind : BitVec 2) (low : Byte), s.job = some j → j.isAlone = false →
    let after : State := { s with
      job := none
      mode := modeAfterFailure s.mode (j.request hw s.sh)
      trace := s.trace ++ [failureEvent (j.request hw s.sh)]
      responses := s.responses ++ [bare .xport] }
    let ends (i : Instr) : Prop :=
      ∃ u, exec i s = .next u ∧ upToSearchState after u ∧ (enumerates j = false → sameSearchState s u)
    ends (.xaFailure low) ∧ ends (.xaReserved kind low)

/-- The same for a procedure that runs on its own, which reports to `ret` and not to the host: the model's choice (log 4). -/
def Obligations.FailureEndsALoneProcedure : Prop :=
  ∀ (s : State) (j : Job) (kind : BitVec 2) (low : Byte), s.job = some j → j.isAlone = true →
    let after : State := { s with
      job := none
      ret := some (.transportError (j.request hw s.sh))
      mode := modeAfterFailure s.mode (j.request hw s.sh)
      trace := s.trace ++ [failureEvent (j.request hw s.sh)] }
    exec (.xaFailure low) s = .next after ∧ exec (.xaReserved kind low) s = .next after

/-- R79, R83: the words of the answer table say what the table says, and every other word is read as a failure. -/
def Obligations.AnswersOutsideTheTableFail : Prop :=
  (∀ c : Byte, answerOfWord (answerWord (.captured c)) = .captured c) ∧
  answerOfWord (answerWord .nothing) = .nothingOrDone ∧
  (∀ w : AnswerWord, (∀ r : Capture, w ≠ answerWord r) → answerOfWord w = .failure)

/-- R83, by the model's reading (log 3): an answer to nothing ends no command and leaves everything as it is. -/
def Obligations.AnswerToNothing : Prop :=
  ∀ (s : State) (i : Instr) (w : AnswerWord), s.job = none → decode (.answer w) = .ok i → exec i s = .next s

/-- R112, R121: what every capture means to a read slot and to the reset. -/
def Obligations.CaptureReadings : Prop :=
  (∀ r, hw.decodeBit r = true ↔ r = .captured 0xFF#8) ∧ hw.classifyReset .nothing = .noBus ∧
  (∀ c, hw.classifyReset (.captured c) = .noDevices ↔ c = 0xF0#8) ∧
  (∀ c, hw.classifyReset (.captured c) = .presence ↔ c ≠ 0xF0#8)

/-! ### The search (43_rom_search.md) -/

/-- R142 to R144: at a wire position whose two readback bits `a` and `b` are not both 1, the direction is the bit on agreement;
at a discrepancy it is the previous pass's bit before `ld`, 1 at `ld`, and 0 after it or without one; a 0 taken at a discrepancy
is recorded in `lz`; the direction is put into `cur_id` and written back. -/
def Obligations.SearchDirection : Prop :=
  ∀ (s : State) (o : Owner) (a : Bool) (r : Capture),
    s.job = some (.transceiving (.search o (.secondRead a))) → s.pos.toNat < 64 →
    ¬ (a = true ∧ readsOne r = true) →
    ∃ (d : Bool) (id : DeviceId),
      (a = true → d = true) ∧ (a = false → readsOne r = true → d = false) ∧
      (a = false → readsOne r = false → s.ld = none → d = false) ∧
      (∀ l : WirePos, a = false → readsOne r = false → s.ld = some l →
        (s.pos.toNat < l.toNat → d = DeviceId.wireBit s.curId s.pos.toNat) ∧
        (s.pos.toNat = l.toNat → d = true) ∧ (l.toNat < s.pos.toNat → d = false)) ∧
      (∀ k < 64, DeviceId.wireBit id k = if k = s.pos.toNat then d else DeviceId.wireBit s.curId k) ∧
      exec (answerRow r) s = .next { s with
        job := some (.transceiving (.search o (.writeBack d)))
        curId := id
        lz := if a = false ∧ readsOne r = false ∧ d = false then some (BitVec.ofNat 6 s.pos.toNat) else s.lz
        trace := s.trace ++ [.xfer 0xFF#8 r] }

/-- R145: the readback (1,1) records NO_DEVICES, aborts the pass with no further request, and ends the command as a failed
reset would; nothing of the pass is stored. -/
def Obligations.SearchAnomaly : Prop :=
  ∀ (s : State) (o : Owner),
    s.job = some (.transceiving (.search o (.secondRead true))) →
    ∃ u, exec (.xaCaptured 0xFF#8) s = .next u ∧ upToSearchState { s with
      job := none
      errCode := .noDevices
      responses := s.responses ++ [enumerationResponse o .stFalse s.reg]
      trace := s.trace ++ [.xfer 0xFF#8 (.captured 0xFF#8)] } u

/-- R147 to R149: the write-back of position 63 completes the pass. An identifier already present is not stored again; a new one
is appended, or, with the registry full, ends the enumeration with `ST_OVF`; then the enumeration is complete, or the recorded
zero becomes `ld` and the next pass starts, with a RESET. Of the search state after an end nothing is said (R25). -/
def Obligations.PassCompletes : Prop :=
  ∀ (s : State) (o : Owner) (d : Bool) (r : Capture),
    s.job = some (.transceiving (.search o (.writeBack d))) → s.pos = 63#7 →
    let reg' := if s.curId ∈ s.reg then s.reg else s.reg ++ [s.curId]
    let after : State := { s with pos := 64#7, trace := s.trace ++ [.xfer (slotByte d) r] }
    (s.curId ∉ s.reg → s.reg.length = Config.capacity →
      ∃ u, exec (answerRow r) s = .next u ∧ upToSearchState { after with
        job := none, responses := s.responses ++ [enumerationResponse o .ovf s.reg] } u) ∧
    ((s.curId ∈ s.reg ∨ s.reg.length < Config.capacity) → s.lz = none →
      ∃ u, exec (answerRow r) s = .next u ∧ upToSearchState { after with
        job := none, reg := reg', responses := s.responses ++ [enumerationResponse o .ok reg'] } u) ∧
    (∀ p, (s.curId ∈ s.reg ∨ s.reg.length < Config.capacity) → s.lz = some p →
      exec (answerRow r) s = .next { after with
        job := some (.configuring (.resetEntry (.pass o))), reg := reg', ld := some p, errCode := .noError })

/-- R156: no bound on passes. For every number there are that many answers, and more, on which DISCOVER is still running; it
holds one identifier and finds the same one again and again. -/
def Obligations.EnumerationNeedNotEnd : Prop :=
  ∀ n : Nat, ∃ ws : List AnswerWord, n ≤ ws.length ∧
    ∀ (arg : Byte) (s : State), s.job = none → s.inbox = answers ws →
      ∃ t, exec (.discover arg) s = .next t ∧ t.busy = true ∧ t.reg.length ≤ 1 ∧ t.responses = s.responses

/-- R76, R146, R149, R150: however DISCOVER ends, on whatever answers: one response; `ST_OK` or `ST_OVF` with no error
recorded, `ST_FALSE` with one, each with the count and the entries as they stand, or `ST_XPORT` with neither; the registry has
no duplicates and fits its capacity. -/
def Obligations.DiscoverEndings : Prop :=
  ∀ (arg : Byte) (s t : State), s.job = none → exec (.discover arg) s = .next t → t.job = none →
    t.reg.Nodup ∧ t.reg.length ≤ Config.capacity ∧
    ((t.errCode = .noError ∧ t.responses = s.responses ++ [enumerationResponse .discover .ok t.reg]) ∨
     (t.errCode = .noError ∧ t.reg.length = Config.capacity ∧
       t.responses = s.responses ++ [enumerationResponse .discover .ovf t.reg]) ∨
     (t.errCode ≠ .noError ∧ t.responses = s.responses ++ [enumerationResponse .discover .stFalse t.reg]) ∨
     (t.errCode = .noError ∧ t.responses = s.responses ++ [{ status := .xport, data := 0#64, beats := [] }]))

/-- R129, R172: however RESET ends, on whatever answers: `ST_OK` goes with no error, `ST_FALSE` with NO_DEVICES or NO_BUS, and
`ST_XPORT` with no error recorded; after a RESET that completed the transport is in `DATA_MODE`. -/
def Obligations.ResetStatusMatchesErrorRecord : Prop :=
  ∀ (arg : Byte) (s t : State), s.job = none → exec (.reset arg) s = .next t → t.job = none →
    ∃ r : Response, t.responses = s.responses ++ [r] ∧ r.data = 0#64 ∧ r.beats = [] ∧
      ((r.status = .ok ∧ t.errCode = .noError ∧ t.mode = .dataMode) ∨
       (r.status = .stFalse ∧ (t.errCode = .noDevices ∨ t.errCode = .noBus) ∧ t.mode = .dataMode) ∨
       (r.status = .xport ∧ t.errCode = .noError))

/-- The commands that use the transport do what the spec's pseudocode does (R141, R146, R152, and R113, R114, R120, R123 to
R126): for every supply of answers on which the pseudocode ends, with a result or with a TransportError. It compares every
field, so also the search state after an enumeration, which R25 leaves unspecified and both sides leave at what was written last
(log 11), and `sh`, `bitcnt` and `pos`, which both write at each answer (log 13); that the unused answers stay in the inbox is
the model's choice (log 1). -/
def Obligations.CommandsFollowPseudocode : Prop :=
  ∀ (i : Instr) (p : Proc Response) (s : State) (ws : List AnswerWord) (rest : List Input),
    Pseudo.command hw i = some p → s.job = none → s.inbox = answers ws ++ rest →
    agreesWithPseudocode rest (exec i s) (p s ws)

/-- A command whose answers run out has done what the pseudocode does up to there, and stays busy without a response, with
exactly the request outstanding that the pseudocode waits on, in the mode it has (R65 b, R107). That it is suspended between its
answers is the model's choice (log 1), and so are the values of `sh`, `bitcnt` and `pos` there (log 13). -/
def Obligations.UnansweredCommandsWait : Prop :=
  ∀ (i : Instr) (p : Proc Response) (s t : State) (r : Request) (ws : List AnswerWord) (rest : List Input),
    Pseudo.command hw i = some p → s.job = none → s.inbox = answers ws ++ rest →
    (∀ w more, rest ≠ .word (.answer w) :: more) → p s ws = .waiting r t →
    ∃ u j, exec i s = .next u ∧ u = { t with inbox := rest, job := some j } ∧ u.request hw = some (t.mode, r) ∧
      u.busy = true ∧ u.responses = s.responses

/-- R153, R154: on the reference bus with `N` distinct devices, `1 ≤ N ≤ REG_CAPACITY`, DISCOVER ends with `ST_OK`, the registry
holds exactly the devices in discovery order, after `N` passes of 203 requests. The bus is a premise (log 22). -/
def Obligations.DiscoveryFindsEveryDevice : Prop :=
  ∀ (arg : Byte) (s u : State) (bus : Bus),
    s.job = none → s.inbox = [] → bus.connected = true → bus.devices ≠ [] → bus.devices.Nodup →
    bus.devices.length ≤ Config.capacity → exec (.discover arg) s = .next u →
    ∃ n t, serve hw n bus u = t ∧ t.job = none ∧ t.reg.Perm bus.devices ∧ t.reg.Pairwise wireBefore ∧
      t.errCode = .noError ∧ t.responses = s.responses ++ [enumerationResponse .discover .ok t.reg] ∧
      t.trace.length = s.trace.length + 203 * bus.devices.length

/-- R103: the reference bus keeps the wired-AND premise: from a state that meets the invariant, with the UART in the
configuration `mode` records, and either in `DATA_MODE` or in a command that resets the bus first (log 22). -/
def Obligations.ReferenceBusIsWiredAnd : Prop :=
  ∀ (n : Nat) (bus : Bus) (s : State), Inv s → bus.umode = s.mode → WiredAnd s.trace →
    (s.mode = .dataMode ∨ ∃ j, s.job = some j ∧ recordsErrors j = true) → WiredAnd (serve hw n bus s).trace

/-! ### Frames and whole-machine rules -/

/-- R116, R127: the codec commands and the ROM commands, however they end or wait, never write `err_code`, `mode`, the
registry or the search state; nor `ret`, the model's own (log 4). -/
def Obligations.ByteTransferFrame : Prop :=
  ∀ (i : Instr) (s t : State), isByteTransfer i = true → exec i s = .next t →
    t.errCode = s.errCode ∧ t.mode = s.mode ∧ t.count = s.count ∧ sameBytes s t ∧ sameSearchState s t ∧ t.ret = s.ret

/-- R128: RESET writes `err_code` and `mode` only, and not `ret`, the model's own (log 4). -/
def Obligations.ResetFrame : Prop :=
  ∀ (arg : Byte) (s t : State), exec (.reset arg) s = .next t →
    t.reg = s.reg ∧ t.count = s.count ∧ sameBytes s t ∧ sameSearchState s t ∧ t.sh = s.sh ∧ t.bitcnt = s.bitcnt ∧
    t.ret = s.ret

/-- R63, R166: the read-only commands change no state and issue no transport request, busy or idle; they give one response, which
repeats when the command does. -/
def Obligations.ReadOnlyFrame : Prop :=
  ∀ (i : Instr) (s t : State), isReadOnly i = true → exec i s = .next t →
    ∃ r : Response, t = { s with responses := s.responses ++ [r] } ∧
      (r.status = .ok ∨ r.status = .notFound ∨ r.status = .reject) ∧
      exec i t = .next { t with responses := t.responses ++ [r] }

/-- The rows that are internal to the engine write no register that a host can read: not the registry or `err_code`; CONFIGURE
alone writes `mode` (what R100, R101 and R116 say each procedure writes). That the rows run on their own, report in `ret` and
give the host no response is the model's choice (log 4); that one called while the engine is busy has no effect is too (log 5). -/
def Obligations.InternalRowsFrame : Prop :=
  ∀ (i : Instr) (s t : State), isInternal i = true → exec i s = .next t →
    t.errCode = s.errCode ∧ t.reg = s.reg ∧ sameBytes s t ∧ sameSearchState s t ∧ t.responses = s.responses ∧
    ((∀ m, i ≠ .configure m) → t.mode = s.mode) ∧ (romRowByte i = none → t.sh = s.sh ∧ t.bitcnt = s.bitcnt)

/-- R165: a step changes the registry only as the effect of DISCOVER or INITIALIZE, and `err_code` only as the effect of a command
that resets the bus (or either by the hardware reset, R200): no other word writes them. -/
def Obligations.RegistryAndErrorRecordWriters : Prop :=
  ∀ (s t : State), step s = .next t →
    (t.reg ≠ s.reg → ∃ x rest, s.inbox = x :: rest ∧
      (x = .hardReset ∨ (∃ w, x = .word (.host w) ∧ s.busy = false ∧ runsEnumeration (decodeHost w) = true) ∨
       (∃ w j, x = .word (.answer w) ∧ s.job = some j ∧ enumerates j = true))) ∧
    (t.errCode ≠ s.errCode → ∃ x rest, s.inbox = x :: rest ∧
      (x = .hardReset ∨ (∃ w, x = .word (.host w) ∧ s.busy = false ∧ resetsBus (decodeHost w) = true) ∨
       (∃ w j, x = .word (.answer w) ∧ s.job = some j ∧ recordsErrors j = true)))

/-- R36, R12: `mode` is the configuration last set with success, or none if the last `Configure` failed, as the trace of the
step says; both histories only grow. -/
def Obligations.ModeFollowsTheTrace : Prop :=
  ∀ (s t : State), step s = .next t →
    ∃ es rs, t.trace = s.trace ++ es ∧ t.responses = s.responses ++ rs ∧
      ((∀ rest, s.inbox ≠ .hardReset :: rest) → t.mode = es.foldl modeAfter s.mode)

/-- R36, R115: no rule reads `mode` to decide anything. From states that differ in `mode` alone every instruction gives states
that differ in `mode` at most: the same responses, the same requests, everything. -/
def Obligations.ModeDecidesNothing : Prop :=
  ∀ (i : Instr) (s t : State) (m : Mode), exec i s = .next t →
    ∃ m', exec i { s with mode := m } = .next { t with mode := m' }

/-- R25: what an enumeration left in the search state is never read. Whatever it is when the engine is idle, every instruction
answers and requests the same, and leaves the same registry and error record. -/
def Obligations.OldSearchStateIsNeverRead : Prop :=
  ∀ (i : Instr) (s t : State) (ld lz : Option WirePos) (id : DeviceId) (pos : BitVec 7),
    s.job = none → exec i s = .next t →
    ∃ u, exec i { s with ld := ld, lz := lz, curId := id, pos := pos } = .next u ∧
      u.responses = t.responses ∧ u.trace = t.trace ∧ u.inbox = t.inbox ∧ u.job = t.job ∧ u.ret = t.ret ∧
      u.reg = t.reg ∧ u.errCode = t.errCode ∧ u.mode = t.mode ∧ u.sh = t.sh ∧ u.bitcnt = t.bitcnt

/-- R190, R222: exactly one response for each word. A command word adds one to the responses given or owed; a transport
answer, which may end the command, adds none. -/
def Obligations.OneResponsePerWord : Prop :=
  ∀ (s t : State) (rest : List Input), step s = .next t →
    (∀ w, s.inbox = .word (.host w) :: rest → responsesOwed t = responsesOwed s + 1) ∧
    (∀ w, s.inbox = .word (.answer w) :: rest → responsesOwed t = responsesOwed s)

/-- What a transport answer leaves alone (R171, R172, R182): the rest of the inbox; and, by the position of the command that
takes it, the registry and the search state outside an enumeration, the registry at every answer that neither ends a wire
position nor the first RESET of INITIALIZE, `err_code` outside the commands that reset the bus, the byte registers outside a
byte transfer, `ret` inside a command. `ret` and the inbox are the model's own (log 4, log 1). -/
def Obligations.AnswerFrame : Prop :=
  ∀ (i : Instr) (w : AnswerWord) (j : Job) (s t : State), decode (.answer w) = .ok i → s.job = some j →
    exec i s = .next t →
    t.inbox = s.inbox ∧
    (enumerates j = false → t.reg = s.reg ∧ sameBytes s t ∧ sameSearchState s t) ∧
    ((∀ o d, j ≠ .transceiving (.search o (.writeBack d))) → (∀ r, j ≠ .configuring (.resetExit .init r)) →
      t.reg = s.reg ∧ sameBytes s t) ∧
    (recordsErrors j = false → t.errCode = s.errCode) ∧
    (j.isAlone = false → t.ret = s.ret) ∧
    ((∀ k, j ≠ .transceiving (.writeSlot k)) → j ≠ .transceiving .readSlot →
      (∀ o r, j ≠ .configuring (.resetExit (.pass o) r)) → t.sh = s.sh ∧ t.bitcnt = s.bitcnt)

/-- What the two enumerating commands leave alone, however they end or wait: `ret`, the model's own (log 4), and the inputs behind
the answers they took, which is how the model runs a command (log 1); and, when the engine is busy, everything but the response
`ST_REJECT` (R31, R176). -/
def Obligations.EnumerationFrame : Prop :=
  ∀ (i : Instr) (s t : State), runsEnumeration i = true → exec i s = .next t →
    t.ret = s.ret ∧ (∃ taken, s.inbox = answers taken ++ t.inbox) ∧
    (s.busy = true → t = { s with responses := s.responses ++ [{ status := .reject, data := 0#64, beats := [] }] })

/-! ### The registry as a byte space (20_memory.md) -/

/-- R50, R58: byte `j` of entry `i` is at address `8i + j`; the eight bytes at `8i` read as the entry, the family code at the
lowest address; beyond `8 * count` nothing is readable. -/
def Obligations.RegistryByteSpace : Prop :=
  ∀ reg : List DeviceId,
    (∀ i j (h : i < reg.length), j < 8 → Registry.memByte reg (8 * i + j) = some (DeviceId.byte (reg[i]'h) j)) ∧
    (∀ i (h : i < reg.length), Registry.memRead reg (8 * i) 8 = some (reg[i]'h)) ∧
    (∀ a, 8 * reg.length ≤ a → Registry.memByte reg a = none)

/-- R147, R167: the append writes the eight bytes at `8 * count` and leaves every other byte of the space as it was. -/
def Obligations.AppendWritesOneEntry : Prop :=
  ∀ (reg : List DeviceId) (id : DeviceId),
    Registry.memRead (Registry.append reg id) (8 * reg.length) 8 = some id ∧
    (∀ a, a < 8 * reg.length ∨ 8 * reg.length + 8 ≤ a →
      Registry.memByte (Registry.append reg id) a = Registry.memByte reg a)
end

