-- ==== Sys2Proof/Laws/Encoding.lean ====
section
/-! SUPPORT. The fields of an encoded word: what each field extraction of the decoder gives on a word the encoder builds. -/

namespace Sys2Proof

/-- A field that lies in the high part of a concatenation. -/
theorem extract_append_high {n m k : Nat} (x : BitVec n) (y : BitVec m) :
    (x ++ y).extractLsb' m k = x.extractLsb' 0 k := by
  apply BitVec.eq_of_getLsbD_eq
  intro i hi
  have : ¬ m + i < m := by omega
  simp [BitVec.getLsbD_append, hi]

/-- A field that lies in the low part of a concatenation. -/
theorem extract_append_low {n m k : Nat} (x : BitVec n) (y : BitVec m) (h : k ≤ m) :
    (x ++ y).extractLsb' 0 k = y.extractLsb' 0 k := by
  apply BitVec.eq_of_getLsbD_eq
  intro i hi
  have : i < m := by omega
  simp [BitVec.getLsbD_append, hi, this]

/-- The field that is the whole vector. -/
theorem extract_whole {n : Nat} (x : BitVec n) : x.extractLsb' 0 n = x := by
  apply BitVec.eq_of_getLsbD_eq
  intro i hi
  simp [hi]

@[simp] theorem opcOf_commandWord (opc arg : Byte) : opcOf (commandWord opc arg) = opc :=
  (extract_append_high opc arg).trans (extract_whole opc)

@[simp] theorem argOf_commandWord (opc arg : Byte) : argOf (commandWord opc arg) = arg :=
  (extract_append_low opc arg (Nat.le_refl 8)).trans (extract_whole arg)

/-- The free `OPC` bits of a reserved row (R82). -/
theorem freeOpc_commandWord {n m : Nat} (h : n + m = 8) (fixed : BitVec n) (x : BitVec m) (arg : Byte) :
    (commandWord ((fixed ++ x).cast h) arg).extractLsb' 8 m = x := by
  refine (extract_append_high _ arg).trans ?_
  apply BitVec.eq_of_getLsbD_eq
  intro i hi
  simp [BitVec.getLsbD_append, hi]

/-- A command word is its two fields. -/
theorem commandWord_opcOf_argOf (w : CommandWord) : commandWord (opcOf w) (argOf w) = w := by
  apply BitVec.eq_of_getLsbD_eq
  intro i hi
  refine (BitVec.getLsbD_append (x := opcOf w) (y := argOf w) (i := i)).trans ?_
  unfold opcOf argOf
  by_cases h : i < 8
  · simp [h]
  · have h8 : i - 8 < 8 := by omega
    have : 8 + (i - 8) = i := by omega
    simp [h, h8, this]

/-- The byte of a `Transceive` request word (R78). -/
theorem transceiveWord_byte (b : Byte) : (transceiveWord b).extractLsb' 0 8 = b :=
  (extract_append_low 1#1 b (Nat.le_refl 8)).trans (extract_whole b)

/-- The kind bit of a `Transceive` request word (R78). -/
theorem transceiveWord_kind (b : Byte) : (transceiveWord b).getLsbD 8 = true :=
  (BitVec.getLsbD_append (x := 1#1) (y := b) (i := 8)).trans (by simp)

end Sys2Proof
end

