-- ==== Sys2Proof/Laws/PerInstr.lean ====
section
/-! SUPPORT. What is said of every instruction as syntax, one lemma for each constructor. Family `Channel`: the word of an
instruction is on the channel of its row's format in spec/opcode_table.json. -/

namespace Sys2Proof.Laws.Channel

/-- The formats of the opcode table. -/
inductive Format where
  | hc
  | xq
  | xa
  | romcmd
  deriving DecidableEq, Repr

/-- The format of a row. -/
def formatOf : Instr → Format
  | .init _ | .reset _ | .discover _ | .deviceCount _ | .devices _ | .device _ | .lastError _ => .hc
  | .writeByte _ | .readByte _ | .skipRom _ | .readRom _ | .searchRom _ | .matchRom _ => .hc
  | .reserved00 _ | .reserved0E _ | .reserved0F _ => .hc
  | .reserved10to1F _ _ | .reserved20to3F _ _ | .reserved40to7F _ _ | .reserved80toFF _ _ => .hc
  | .configure _ | .transceive _ | .resetPulse | .writeBit1 | .writeBit0 | .readBit => .xq
  | .xaCaptured _ | .xaNothingOrDone | .xaFailure _ | .xaReserved _ _ => .xa
  | .romSkip | .romRead | .romMatch | .romSearch => .romcmd

/-- The format a channel carries. -/
def channelFormat : PortWord → Format
  | .host _ => .hc
  | .call _ _ => .xq
  | .answer _ => .xa
  | .romByte _ => .romcmd

/-- The word of the instruction is on the channel of its format. -/
def Statement (i : Instr) : Prop := channelFormat (encode i) = formatOf i

theorem init (arg : Byte) : Statement (.init arg) := rfl
theorem reset (arg : Byte) : Statement (.reset arg) := rfl
theorem discover (arg : Byte) : Statement (.discover arg) := rfl
theorem deviceCount (arg : Byte) : Statement (.deviceCount arg) := rfl
theorem devices (arg : Byte) : Statement (.devices arg) := rfl
theorem device (index : Byte) : Statement (.device index) := rfl
theorem lastError (arg : Byte) : Statement (.lastError arg) := rfl
theorem writeByte (value : Byte) : Statement (.writeByte value) := rfl
theorem readByte (arg : Byte) : Statement (.readByte arg) := rfl
theorem skipRom (arg : Byte) : Statement (.skipRom arg) := rfl
theorem readRom (arg : Byte) : Statement (.readRom arg) := rfl
theorem searchRom (arg : Byte) : Statement (.searchRom arg) := rfl
theorem matchRom (arg : Byte) : Statement (.matchRom arg) := rfl
theorem reserved00 (arg : Byte) : Statement (.reserved00 arg) := rfl
theorem reserved0E (arg : Byte) : Statement (.reserved0E arg) := rfl
theorem reserved0F (arg : Byte) : Statement (.reserved0F arg) := rfl
theorem reserved10to1F (x : BitVec 4) (arg : Byte) : Statement (.reserved10to1F x arg) := rfl
theorem reserved20to3F (x : BitVec 5) (arg : Byte) : Statement (.reserved20to3F x arg) := rfl
theorem reserved40to7F (x : BitVec 6) (arg : Byte) : Statement (.reserved40to7F x arg) := rfl
theorem reserved80toFF (x : BitVec 7) (arg : Byte) : Statement (.reserved80toFF x arg) := rfl
theorem configure (m : ConfigMode) : Statement (.configure m) := rfl
theorem transceive (b : Byte) : Statement (.transceive b) := rfl
theorem resetPulse : Statement (.resetPulse) := rfl
theorem writeBit1 : Statement (.writeBit1) := rfl
theorem writeBit0 : Statement (.writeBit0) := rfl
theorem readBit : Statement (.readBit) := rfl
theorem xaCaptured (c : Byte) : Statement (.xaCaptured c) := rfl
theorem xaNothingOrDone : Statement (.xaNothingOrDone) := rfl
theorem xaFailure (low : Byte) : Statement (.xaFailure low) := rfl
theorem xaReserved (kind : BitVec 2) (low : Byte) : Statement (.xaReserved kind low) := rfl
theorem romSkip : Statement (.romSkip) := rfl
theorem romRead : Statement (.romRead) := rfl
theorem romMatch : Statement (.romMatch) := rfl
theorem romSearch : Statement (.romSearch) := rfl

end Sys2Proof.Laws.Channel
end

