-- ==== Sys2Proof/Laws/Registry.lean ====
section
/-! SUPPORT. The laws of the registry and of the bit operations: reading a byte, the append, setting one bit of an identifier,
the two byte shifts. -/

namespace Sys2Proof

/-- Bit `i` of byte `j` is bit `8j + i`. -/
theorem DeviceId.getLsbD_byte (id : DeviceId) (j i : Nat) (hi : i < 8) :
    (DeviceId.byte id j).getLsbD i = id.getLsbD (8 * j + i) := by
  simp [DeviceId.byte, hi]

/-- Setting bit `k` sets that bit and no other (43_rom_search.md R158). -/
theorem DeviceId.wireBit_withBit (id : DeviceId) (k : Nat) (d : Bool) (j : Nat) (hk : k < 64) (hj : j < 64) :
    DeviceId.wireBit (DeviceId.withBit id k d) j = if j = k then d else DeviceId.wireBit id j := by
  unfold DeviceId.wireBit DeviceId.withBit
  cases d
  · by_cases h : j = k
    · subst h; simp [hk]
    · rcases Nat.lt_or_ge j k with hlt | hge
      · simp [h, hj, hlt]
      · have : ¬ j < k := by omega
        have h0 : j - k ≠ 0 := by omega
        simp [h, hj, this, h0]
  · by_cases h : j = k
    · subst h; simp [hk]
    · rcases Nat.lt_or_ge j k with hlt | hge
      · simp [h, hlt]
      · have : ¬ j < k := by omega
        have h0 : j - k ≠ 0 := by omega
        simp [h, hj, this, h0]

/-- Two identifiers with the same wire bits are the same. -/
theorem DeviceId.ext_wireBit (a b : DeviceId)
    (h : ∀ k < 64, DeviceId.wireBit a k = DeviceId.wireBit b k) : a = b :=
  BitVec.eq_of_getLsbD_eq h

namespace Machine

/-- The shift of WRITE_BYTE moves every bit one place down and puts a 0 on top (R113). -/
theorem shiftOut_getLsbD (sh : Byte) (i : Nat) (hi : i < 7) : (shiftOut sh).getLsbD i = sh.getLsbD (i + 1) := by
  unfold shiftOut
  rw [BitVec.getLsbD_append]
  have : i < 7 := hi
  simp [this, Nat.add_comm]

/-- The shift of READ_BYTE moves every bit one place down (R114). -/
theorem shiftIn_getLsbD_low (t : Bool) (sh : Byte) (i : Nat) (hi : i < 7) :
    (shiftIn t sh).getLsbD i = sh.getLsbD (i + 1) := by
  unfold shiftIn
  rw [BitVec.getLsbD_append]
  simp [hi, Nat.add_comm]

/-- The shift of READ_BYTE puts the new bit on top (R114). -/
theorem shiftIn_getLsbD_high (t : Bool) (sh : Byte) : (shiftIn t sh).getLsbD 7 = t := by
  unfold shiftIn
  rw [BitVec.getLsbD_append]
  simp

/-- The append keeps the entries there are. -/
theorem append_getElem?_lt (reg : List DeviceId) (id : DeviceId) (i : Nat) (h : i < reg.length) :
    (Registry.append reg id)[i]? = reg[i]? := by
  simp [Registry.append, List.getElem?_append_left h]

/-- The append adds one entry at the end. -/
theorem append_getElem?_eq (reg : List DeviceId) (id : DeviceId) :
    (Registry.append reg id)[reg.length]? = some id := by
  simp [Registry.append]

@[simp] theorem append_length (reg : List DeviceId) (id : DeviceId) :
    (Registry.append reg id).length = reg.length + 1 := by simp [Registry.append]

/-- The registry keeps its form under an append that passed the duplicate test and the capacity test (R147, R149). -/
theorem append_registryForm (cfg : Config) (reg : List DeviceId) (id : DeviceId) (h : Safety.registryForm cfg reg)
    (hnew : id ∉ reg) (hroom : reg.length < cfg.regCapacity) : Safety.registryForm cfg (Registry.append reg id) := by
  refine ⟨?_, by simpa using hroom⟩
  unfold Registry.append
  rw [List.nodup_append]
  refine ⟨h.1, by simp, fun a ha b hb => ?_⟩
  rintro rfl
  rw [List.mem_singleton] at hb
  exact hnew (hb ▸ ha)

/-- The empty registry has the form. -/
theorem empty_registryForm (cfg : Config) : Safety.registryForm cfg [] := ⟨List.nodup_nil, Nat.zero_le _⟩

/-- Byte `j` of entry `i`, of an entry that is there. -/
theorem memByte_of_entry (reg : List DeviceId) (i j : Nat) (id : DeviceId) (h : reg[i]? = some id) (hj : j < 8) :
    Registry.memByte reg (8 * i + j) = some (DeviceId.byte id j) := by
  have hd : (8 * i + j) / 8 = i := by omega
  have hm : (8 * i + j) % 8 = j := by omega
  simp [Registry.memByte, hd, hm, h]

end Machine

end Sys2Proof
end

