-- ==== Sys2Proof/Laws/State.lean ====
section
/-! SUPPORT. One lemma for each field of the state and each operation that writes the state, so that no later proof unfolds a
record update. -/

namespace Sys2Proof.Machine

variable (s : State)

@[simp] theorem await_mode (j : Job) : (await j s).mode = s.mode := rfl
@[simp] theorem await_errCode (j : Job) : (await j s).errCode = s.errCode := rfl
@[simp] theorem await_reg (j : Job) : (await j s).reg = s.reg := rfl
@[simp] theorem await_ld (j : Job) : (await j s).ld = s.ld := rfl
@[simp] theorem await_curId (j : Job) : (await j s).curId = s.curId := rfl
@[simp] theorem await_lz (j : Job) : (await j s).lz = s.lz := rfl
@[simp] theorem await_pos (j : Job) : (await j s).pos = s.pos := rfl
@[simp] theorem await_sh (j : Job) : (await j s).sh = s.sh := rfl
@[simp] theorem await_bitcnt (j : Job) : (await j s).bitcnt = s.bitcnt := rfl
@[simp] theorem await_job (j : Job) : (await j s).job = some j := rfl
@[simp] theorem await_ret (j : Job) : (await j s).ret = s.ret := rfl
@[simp] theorem await_inbox (j : Job) : (await j s).inbox = s.inbox := rfl
@[simp] theorem await_responses (j : Job) : (await j s).responses = s.responses := rfl
@[simp] theorem await_trace (j : Job) : (await j s).trace = s.trace := rfl

@[simp] theorem respond_mode (st : Status) (d : BitVec 64) (b : List DeviceId) : (respond st d b s).mode = s.mode := rfl
@[simp] theorem respond_errCode (st : Status) (d : BitVec 64) (b : List DeviceId) : (respond st d b s).errCode = s.errCode := rfl
@[simp] theorem respond_reg (st : Status) (d : BitVec 64) (b : List DeviceId) : (respond st d b s).reg = s.reg := rfl
@[simp] theorem respond_ld (st : Status) (d : BitVec 64) (b : List DeviceId) : (respond st d b s).ld = s.ld := rfl
@[simp] theorem respond_curId (st : Status) (d : BitVec 64) (b : List DeviceId) : (respond st d b s).curId = s.curId := rfl
@[simp] theorem respond_lz (st : Status) (d : BitVec 64) (b : List DeviceId) : (respond st d b s).lz = s.lz := rfl
@[simp] theorem respond_pos (st : Status) (d : BitVec 64) (b : List DeviceId) : (respond st d b s).pos = s.pos := rfl
@[simp] theorem respond_sh (st : Status) (d : BitVec 64) (b : List DeviceId) : (respond st d b s).sh = s.sh := rfl
@[simp] theorem respond_bitcnt (st : Status) (d : BitVec 64) (b : List DeviceId) : (respond st d b s).bitcnt = s.bitcnt := rfl
@[simp] theorem respond_job (st : Status) (d : BitVec 64) (b : List DeviceId) : (respond st d b s).job = none := rfl
@[simp] theorem respond_ret (st : Status) (d : BitVec 64) (b : List DeviceId) : (respond st d b s).ret = s.ret := rfl
@[simp] theorem respond_inbox (st : Status) (d : BitVec 64) (b : List DeviceId) : (respond st d b s).inbox = s.inbox := rfl
@[simp] theorem respond_responses (st : Status) (d : BitVec 64) (b : List DeviceId) : (respond st d b s).responses = s.responses ++ [{ status := st, data := d, beats := b }] := rfl
@[simp] theorem respond_trace (st : Status) (d : BitVec 64) (b : List DeviceId) : (respond st d b s).trace = s.trace := rfl

@[simp] theorem rejectWord_mode : (rejectWord s).mode = s.mode := rfl
@[simp] theorem rejectWord_errCode : (rejectWord s).errCode = s.errCode := rfl
@[simp] theorem rejectWord_reg : (rejectWord s).reg = s.reg := rfl
@[simp] theorem rejectWord_ld : (rejectWord s).ld = s.ld := rfl
@[simp] theorem rejectWord_curId : (rejectWord s).curId = s.curId := rfl
@[simp] theorem rejectWord_lz : (rejectWord s).lz = s.lz := rfl
@[simp] theorem rejectWord_pos : (rejectWord s).pos = s.pos := rfl
@[simp] theorem rejectWord_sh : (rejectWord s).sh = s.sh := rfl
@[simp] theorem rejectWord_bitcnt : (rejectWord s).bitcnt = s.bitcnt := rfl
@[simp] theorem rejectWord_job : (rejectWord s).job = s.job := rfl
@[simp] theorem rejectWord_ret : (rejectWord s).ret = s.ret := rfl
@[simp] theorem rejectWord_inbox : (rejectWord s).inbox = s.inbox := rfl
@[simp] theorem rejectWord_responses : (rejectWord s).responses = s.responses ++ [{ status := .reject, data := 0#64, beats := [] }] := rfl
@[simp] theorem rejectWord_trace : (rejectWord s).trace = s.trace := rfl

@[simp] theorem finishAlone_mode (r : LoneResult) : (finishAlone r s).mode = s.mode := rfl
@[simp] theorem finishAlone_errCode (r : LoneResult) : (finishAlone r s).errCode = s.errCode := rfl
@[simp] theorem finishAlone_reg (r : LoneResult) : (finishAlone r s).reg = s.reg := rfl
@[simp] theorem finishAlone_ld (r : LoneResult) : (finishAlone r s).ld = s.ld := rfl
@[simp] theorem finishAlone_curId (r : LoneResult) : (finishAlone r s).curId = s.curId := rfl
@[simp] theorem finishAlone_lz (r : LoneResult) : (finishAlone r s).lz = s.lz := rfl
@[simp] theorem finishAlone_pos (r : LoneResult) : (finishAlone r s).pos = s.pos := rfl
@[simp] theorem finishAlone_sh (r : LoneResult) : (finishAlone r s).sh = s.sh := rfl
@[simp] theorem finishAlone_bitcnt (r : LoneResult) : (finishAlone r s).bitcnt = s.bitcnt := rfl
@[simp] theorem finishAlone_job (r : LoneResult) : (finishAlone r s).job = none := rfl
@[simp] theorem finishAlone_ret (r : LoneResult) : (finishAlone r s).ret = some r := rfl
@[simp] theorem finishAlone_inbox (r : LoneResult) : (finishAlone r s).inbox = s.inbox := rfl
@[simp] theorem finishAlone_responses (r : LoneResult) : (finishAlone r s).responses = s.responses := rfl
@[simp] theorem finishAlone_trace (r : LoneResult) : (finishAlone r s).trace = s.trace := rfl

@[simp] theorem recordEvent_mode (e : TransportEvent) : (recordEvent e s).mode = s.mode := rfl
@[simp] theorem recordEvent_errCode (e : TransportEvent) : (recordEvent e s).errCode = s.errCode := rfl
@[simp] theorem recordEvent_reg (e : TransportEvent) : (recordEvent e s).reg = s.reg := rfl
@[simp] theorem recordEvent_ld (e : TransportEvent) : (recordEvent e s).ld = s.ld := rfl
@[simp] theorem recordEvent_curId (e : TransportEvent) : (recordEvent e s).curId = s.curId := rfl
@[simp] theorem recordEvent_lz (e : TransportEvent) : (recordEvent e s).lz = s.lz := rfl
@[simp] theorem recordEvent_pos (e : TransportEvent) : (recordEvent e s).pos = s.pos := rfl
@[simp] theorem recordEvent_sh (e : TransportEvent) : (recordEvent e s).sh = s.sh := rfl
@[simp] theorem recordEvent_bitcnt (e : TransportEvent) : (recordEvent e s).bitcnt = s.bitcnt := rfl
@[simp] theorem recordEvent_job (e : TransportEvent) : (recordEvent e s).job = s.job := rfl
@[simp] theorem recordEvent_ret (e : TransportEvent) : (recordEvent e s).ret = s.ret := rfl
@[simp] theorem recordEvent_inbox (e : TransportEvent) : (recordEvent e s).inbox = s.inbox := rfl
@[simp] theorem recordEvent_responses (e : TransportEvent) : (recordEvent e s).responses = s.responses := rfl
@[simp] theorem recordEvent_trace (e : TransportEvent) : (recordEvent e s).trace = s.trace ++ [e] := rfl

@[simp] theorem configureDone_mode (m : ConfigMode) : (configureDone m s).mode = Mode.ofConfig m := rfl
@[simp] theorem configureDone_errCode (m : ConfigMode) : (configureDone m s).errCode = s.errCode := rfl
@[simp] theorem configureDone_reg (m : ConfigMode) : (configureDone m s).reg = s.reg := rfl
@[simp] theorem configureDone_ld (m : ConfigMode) : (configureDone m s).ld = s.ld := rfl
@[simp] theorem configureDone_curId (m : ConfigMode) : (configureDone m s).curId = s.curId := rfl
@[simp] theorem configureDone_lz (m : ConfigMode) : (configureDone m s).lz = s.lz := rfl
@[simp] theorem configureDone_pos (m : ConfigMode) : (configureDone m s).pos = s.pos := rfl
@[simp] theorem configureDone_sh (m : ConfigMode) : (configureDone m s).sh = s.sh := rfl
@[simp] theorem configureDone_bitcnt (m : ConfigMode) : (configureDone m s).bitcnt = s.bitcnt := rfl
@[simp] theorem configureDone_job (m : ConfigMode) : (configureDone m s).job = s.job := rfl
@[simp] theorem configureDone_ret (m : ConfigMode) : (configureDone m s).ret = s.ret := rfl
@[simp] theorem configureDone_inbox (m : ConfigMode) : (configureDone m s).inbox = s.inbox := rfl
@[simp] theorem configureDone_responses (m : ConfigMode) : (configureDone m s).responses = s.responses := rfl
@[simp] theorem configureDone_trace (m : ConfigMode) : (configureDone m s).trace = s.trace ++ [.cfg m] := rfl

@[simp] theorem clearForEnumeration_mode : (clearForEnumeration s).mode = s.mode := rfl
@[simp] theorem clearForEnumeration_errCode : (clearForEnumeration s).errCode = s.errCode := rfl
@[simp] theorem clearForEnumeration_reg : (clearForEnumeration s).reg = [] := rfl
@[simp] theorem clearForEnumeration_ld : (clearForEnumeration s).ld = none := rfl
@[simp] theorem clearForEnumeration_curId : (clearForEnumeration s).curId = 0#64 := rfl
@[simp] theorem clearForEnumeration_lz : (clearForEnumeration s).lz = s.lz := rfl
@[simp] theorem clearForEnumeration_pos : (clearForEnumeration s).pos = s.pos := rfl
@[simp] theorem clearForEnumeration_sh : (clearForEnumeration s).sh = s.sh := rfl
@[simp] theorem clearForEnumeration_bitcnt : (clearForEnumeration s).bitcnt = s.bitcnt := rfl
@[simp] theorem clearForEnumeration_job : (clearForEnumeration s).job = s.job := rfl
@[simp] theorem clearForEnumeration_ret : (clearForEnumeration s).ret = s.ret := rfl
@[simp] theorem clearForEnumeration_inbox : (clearForEnumeration s).inbox = s.inbox := rfl
@[simp] theorem clearForEnumeration_responses : (clearForEnumeration s).responses = s.responses := rfl
@[simp] theorem clearForEnumeration_trace : (clearForEnumeration s).trace = s.trace := rfl

@[simp] theorem requestFailed_errCode (r : Request) : (requestFailed r s).errCode = s.errCode := by cases r <;> rfl
@[simp] theorem requestFailed_reg (r : Request) : (requestFailed r s).reg = s.reg := by cases r <;> rfl
@[simp] theorem requestFailed_ld (r : Request) : (requestFailed r s).ld = s.ld := by cases r <;> rfl
@[simp] theorem requestFailed_curId (r : Request) : (requestFailed r s).curId = s.curId := by cases r <;> rfl
@[simp] theorem requestFailed_lz (r : Request) : (requestFailed r s).lz = s.lz := by cases r <;> rfl
@[simp] theorem requestFailed_pos (r : Request) : (requestFailed r s).pos = s.pos := by cases r <;> rfl
@[simp] theorem requestFailed_sh (r : Request) : (requestFailed r s).sh = s.sh := by cases r <;> rfl
@[simp] theorem requestFailed_bitcnt (r : Request) : (requestFailed r s).bitcnt = s.bitcnt := by cases r <;> rfl
@[simp] theorem requestFailed_job (r : Request) : (requestFailed r s).job = s.job := by cases r <;> rfl
@[simp] theorem requestFailed_ret (r : Request) : (requestFailed r s).ret = s.ret := by cases r <;> rfl
@[simp] theorem requestFailed_inbox (r : Request) : (requestFailed r s).inbox = s.inbox := by cases r <;> rfl
@[simp] theorem requestFailed_responses (r : Request) : (requestFailed r s).responses = s.responses := by cases r <;> rfl

@[simp] theorem requestFailed_configure_mode (m : ConfigMode) : (requestFailed (.configure m) s).mode = .unconf := rfl
@[simp] theorem requestFailed_transceive_mode (b : Byte) : (requestFailed (.transceive b) s).mode = s.mode := rfl
@[simp] theorem requestFailed_configure_trace (m : ConfigMode) :
    (requestFailed (.configure m) s).trace = s.trace ++ [.cfgFail m] := rfl
@[simp] theorem requestFailed_transceive_trace (b : Byte) :
    (requestFailed (.transceive b) s).trace = s.trace ++ [.xferFail b] := rfl

@[simp] theorem busy_of_none (h : s.job = none) : s.busy = false := by simp [State.busy, h]
@[simp] theorem busy_of_some (j : Job) (h : s.job = some j) : s.busy = true := by simp [State.busy, h]

theorem busy_eq_true_iff : s.busy = true ↔ ∃ j, s.job = some j := by
  simp [State.busy, Option.isSome_iff_exists]

theorem busy_eq_false_iff : s.busy = false ↔ s.job = none := by
  simp [State.busy]

end Sys2Proof.Machine
end

