-- ==== Sys2Proof/Laws/Sequencer.lean ====
section
/-! SUPPORT. What the shared operations of the sequencer can do: the equations of `takeAnswer` by the outstanding request, the
equations and the one induction of `drainQueue`, the meaning of an answer word, and that the ends of a procedure do not look at
the position they are reached from. -/

namespace Sys2Proof.Machine

variable (cfg : Config) (s : State)

/-! ### Answers -/

/-- Every answer word, decoded and run, is its answer taken by the outstanding request. -/
theorem exec_decodeAnswer (w : AnswerWord) :
    exec (decodeAnswer w) s = .next (takeAnswer hw (answerOfWord w) s) := by
  unfold answerOfWord decodeAnswer
  dsimp only
  split
  · rfl
  · split
    · rfl
    · split <;> rfl

theorem takeAnswer_idle (a : Answer) (h : s.job = none) : takeAnswer cfg a s = s := by
  simp [takeAnswer, h]

theorem takeAnswer_configuring (a : Answer) (p : ConfigPoint) (h : s.job = some (.configuring p)) :
    takeAnswer cfg a s = configureAnswer cfg p a s := by simp [takeAnswer, h]

theorem takeAnswer_transceiving (a : Answer) (p : TransceivePoint) (h : s.job = some (.transceiving p)) :
    takeAnswer cfg a s = transceiveAnswer cfg p a s := by simp [takeAnswer, h]

/-- Everything taking an answer can be: nothing, a TransportError, a `Configure` done, a `Transceive` done. -/
theorem takeAnswer_cases (a : Answer) :
    (s.job = none ∧ takeAnswer cfg a s = s) ∨
    (∃ j, s.job = some j ∧ a = .failure ∧ takeAnswer cfg a s = raiseTransportError cfg j s) ∨
    (∃ p, s.job = some (.configuring p) ∧ a ≠ .failure ∧
      takeAnswer cfg a s = configured cfg p (configureDone p.operand s)) ∨
    (∃ p r, s.job = some (.transceiving p) ∧ a ≠ .failure ∧
      takeAnswer cfg a s = transceived cfg p r (recordEvent (.xfer (p.byteSent cfg s.sh) r) s)) := by
  cases hj : s.job with
  | none => exact .inl ⟨rfl, takeAnswer_idle cfg s a hj⟩
  | some j =>
    cases j with
    | configuring p =>
      rw [takeAnswer_configuring cfg s a p hj]
      cases a
      · exact .inr (.inr (.inl ⟨p, rfl, by simp, rfl⟩))
      · exact .inr (.inr (.inl ⟨p, rfl, by simp, rfl⟩))
      · exact .inr (.inl ⟨_, rfl, rfl, rfl⟩)
    | transceiving p =>
      rw [takeAnswer_transceiving cfg s a p hj]
      cases a with
      | captured c => exact .inr (.inr (.inr ⟨p, .captured c, rfl, by simp, rfl⟩))
      | nothingOrDone => exact .inr (.inr (.inr ⟨p, .nothing, rfl, by simp, rfl⟩))
      | failure => exact .inr (.inl ⟨_, rfl, rfl, rfl⟩)

/-! ### The loops: one more round, or the end -/

theorem writeSlotDone_more (k : WriteCaller) (h : (s.bitcnt + 1#4).toNat < 8) :
    writeSlotDone k s =
      await (.transceiving (.writeSlot k)) { s with sh := shiftOut s.sh, bitcnt := s.bitcnt + 1#4 } := if_pos h

theorem writeSlotDone_last (k : WriteCaller) (h : ¬ (s.bitcnt + 1#4).toNat < 8) :
    writeSlotDone k s = writeReturn k { s with sh := shiftOut s.sh, bitcnt := s.bitcnt + 1#4 } := if_neg h

theorem readSlotDone_more (t : Bool) (h : (s.bitcnt + 1#4).toNat < 8) :
    readSlotDone t s =
      await (.transceiving .readSlot) { s with sh := shiftIn t s.sh, bitcnt := s.bitcnt + 1#4 } := if_pos h

theorem readSlotDone_last (t : Bool) (h : ¬ (s.bitcnt + 1#4).toNat < 8) :
    readSlotDone t s = respond .ok ((shiftIn t s.sh).zeroExtend 64) []
      { s with sh := shiftIn t s.sh, bitcnt := s.bitcnt + 1#4 } := if_neg h

theorem positionDone_more (o : Owner) (h : (s.pos + 1#7).toNat < 64) :
    positionDone cfg o s = startPosition o { s with pos := s.pos + 1#7 } := if_pos h

theorem positionDone_last (o : Owner) (h : ¬ (s.pos + 1#7).toNat < 64) :
    positionDone cfg o s = passComplete cfg o { s with pos := s.pos + 1#7 } := if_neg h

/-- The readback (1,1) (R145). -/
theorem positionRead_anomaly (o : Owner) : positionRead o true true s = searchAnomaly o s := rfl

/-- Any other readback: the direction, its record, its write-back (R142 to R144). -/
theorem positionRead_direction (o : Owner) (a b : Bool) (h : (a && b) = false) :
    positionRead o a b s =
      await (.transceiving (.search o (.writeBack (searchDirection s.ld s.curId s.pos.toNat a b))))
        { s with
          lz := bif !a && !b && !(searchDirection s.ld s.curId s.pos.toNat a b) then some (s.pos.setWidth 6) else s.lz
          curId := DeviceId.withBit s.curId s.pos.toNat (searchDirection s.ld s.curId s.pos.toNat a b) } := by
  rw [positionRead, if_neg (by simp [h])]

/-- A pass that found an identifier already there (R147). -/
theorem passComplete_known (o : Owner) (h : s.curId ∈ s.reg) : passComplete cfg o s = nextPass o s := if_pos h

/-- A pass that found a new identifier with the registry full (R149). -/
theorem passComplete_full (o : Owner) (h : s.curId ∉ s.reg) (hfull : cfg.regCapacity ≤ s.reg.length) :
    passComplete cfg o s = endEnumeration o .ovf s := by rw [passComplete, if_neg h, if_pos hfull]

/-- A pass that found a new identifier with room for it (R147). -/
theorem passComplete_new (o : Owner) (h : s.curId ∉ s.reg) (hroom : s.reg.length < cfg.regCapacity) :
    passComplete cfg o s = nextPass o { s with reg := Registry.append s.reg s.curId } := by
  rw [passComplete, if_neg h, if_neg (by omega)]

/-- The end test of R148: nothing left unresolved. -/
theorem nextPass_end (o : Owner) (h : s.lz = none) : nextPass o s = endEnumeration o .ok s := by
  simp only [nextPass, h]

/-- The end test of R148: a recorded zero, and so another pass. -/
theorem nextPass_more (o : Owner) (p : WirePos) (h : s.lz = some p) :
    nextPass o s = startPass o { s with ld := some p } := by simp only [nextPass, h]

/-! ### Draining the inbox -/

@[simp] theorem drainQueue_nil : drainQueue cfg [] s = { s with inbox := [] } := rfl

@[simp] theorem drainQueue_hardReset (q : List Input) :
    drainQueue cfg (.hardReset :: q) s = { s with inbox := .hardReset :: q } := rfl

@[simp] theorem drainQueue_host (w : CommandWord) (q : List Input) :
    drainQueue cfg (.word (.host w) :: q) s = { s with inbox := .word (.host w) :: q } := rfl

theorem drainQueue_answer (w : AnswerWord) (q : List Input) (h : s.busy = true) :
    drainQueue cfg (.word (.answer w) :: q) s = drainQueue cfg q (takeAnswer cfg (answerOfWord w) s) := by
  rw [drainQueue, if_pos h]

/-- An idle engine takes nothing: what is left of the queue is the inbox. -/
theorem drainQueue_idle (q : List Input) (h : s.busy = false) : drainQueue cfg q s = { s with inbox := q } := by
  match q with
  | [] => rfl
  | .hardReset :: _ => rfl
  | .word (.host _) :: _ => rfl
  | .word (.call _ _) :: _ => rfl
  | .word (.romByte _) :: _ => rfl
  | .word (.answer w) :: rest => rw [drainQueue, if_neg (by simp [h])]

/-- A queue that does not begin with an answer is left as it is. -/
theorem drainQueue_noAnswer (q : List Input) (h : ∀ w rest, q ≠ .word (.answer w) :: rest) :
    drainQueue cfg q s = { s with inbox := q } := by
  match q with
  | [] => rfl
  | .hardReset :: _ => rfl
  | .word (.host _) :: _ => rfl
  | .word (.call _ _) :: _ => rfl
  | .word (.romByte _) :: _ => rfl
  | .word (.answer w) :: rest => exact absurd rfl (h w rest)

/-- What every taken answer keeps, and what does not look at the inbox, draining keeps. -/
theorem drainQueue_induct {P : State → Prop} (hAnswer : ∀ s a, s.busy = true → P s → P (takeAnswer cfg a s))
    (hInbox : ∀ s q, P s → P { s with inbox := q }) (q : List Input) : ∀ s, P s → P (drainQueue cfg q s) := by
  induction q with
  | nil => intro s h; exact hInbox s [] h
  | cons x q ih =>
    intro s h
    by_cases hb : s.busy = true
    · match x with
      | .word (.answer w) =>
        rw [drainQueue_answer cfg s w q hb]
        exact ih _ (hAnswer s _ hb h)
      | .hardReset => exact hInbox s _ h
      | .word (.host _) => exact hInbox s _ h
      | .word (.call _ _) => exact hInbox s _ h
      | .word (.romByte _) => exact hInbox s _ h
    · rw [drainQueue_idle cfg s _ (by simpa using hb)]
      exact hInbox s _ h

/-- The queue is what was taken and what is left in the inbox. -/
theorem drainQueue_taken (q : List Input) : ∀ s, ∃ taken : List AnswerWord,
    q = taken.map (fun w => Input.word (.answer w)) ++ (drainQueue cfg q s).inbox := by
  induction q with
  | nil => intro s; exact ⟨[], rfl⟩
  | cons x q ih =>
    intro s
    by_cases hb : s.busy = true
    · match x with
      | .word (.answer w) =>
        rw [drainQueue_answer cfg s w q hb]
        obtain ⟨ws, hws⟩ := ih (takeAnswer cfg (answerOfWord w) s)
        exact ⟨w :: ws, by rw [List.map_cons, List.cons_append, ← hws]⟩
      | .hardReset => exact ⟨[], rfl⟩
      | .word (.host _) => exact ⟨[], rfl⟩
      | .word (.call _ _) => exact ⟨[], rfl⟩
      | .word (.romByte _) => exact ⟨[], rfl⟩
    · rw [drainQueue_idle cfg s _ (by simpa using hb)]
      exact ⟨[], rfl⟩

/-! ### Offering a command, calling a procedure -/

theorem runCommand_busy (start : State → State) (h : s.busy = true) : runCommand cfg start s = rejectWord s := by
  rw [runCommand, if_pos h]

theorem runCommand_idle (start : State → State) (h : s.job = none) :
    runCommand cfg start s = drainQueue cfg (start s).inbox (start s) := by
  rw [runCommand, if_neg (by simp [State.busy, h]), drain]

theorem runAlone_busy (start : State → State) (h : s.busy = true) : runAlone cfg start s = s := by
  rw [runAlone, if_pos h]

theorem runAlone_idle (start : State → State) (h : s.job = none) :
    runAlone cfg start s = drainQueue cfg (start s).inbox (start s) := by
  rw [runAlone, if_neg (by simp [State.busy, h]), drain]

/-! ### The ends of a procedure do not depend on the position they are reached from -/

variable (j : Option Job)

@[simp] theorem await_job_irrelevant (k : Job) : await k { s with job := j } = await k s := rfl

@[simp] theorem respond_job_irrelevant (st : Status) (d : BitVec 64) (b : List DeviceId) :
    respond st d b { s with job := j } = respond st d b s := rfl

@[simp] theorem finishAlone_job_irrelevant (r : LoneResult) :
    finishAlone r { s with job := j } = finishAlone r s := rfl

@[simp] theorem startReset_job_irrelevant (k : ResetCaller) :
    startReset k { s with job := j } = startReset k s := rfl

@[simp] theorem startWriteByte_job_irrelevant (k : WriteCaller) (v : Byte) :
    startWriteByte k v { s with job := j } = startWriteByte k v s := rfl

@[simp] theorem startDiscover_job_irrelevant (o : Owner) :
    startDiscover o { s with job := j } = startDiscover o s := rfl

@[simp] theorem endEnumeration_job_irrelevant (o : Owner) (st : Status) :
    endEnumeration o st { s with job := j } = endEnumeration o st s := by cases o <;> rfl

@[simp] theorem nextPass_job_irrelevant (o : Owner) : nextPass o { s with job := j } = nextPass o s := by
  unfold nextPass
  dsimp only
  split
  · exact endEnumeration_job_irrelevant s j o .ok
  · rfl

@[simp] theorem passComplete_job_irrelevant (o : Owner) :
    passComplete cfg o { s with job := j } = passComplete cfg o s := by
  unfold passComplete
  split
  · simp
  · split
    · simp
    · exact nextPass_job_irrelevant { s with reg := Registry.append s.reg s.curId } j o

@[simp] theorem resetReturn_job_irrelevant (k : ResetCaller) (ok : Bool) :
    resetReturn k ok { s with job := j } = resetReturn k ok s := by
  cases k <;> cases ok <;> simp [resetReturn]

@[simp] theorem writeReturn_job_irrelevant (k : WriteCaller) :
    writeReturn k { s with job := j } = writeReturn k s := by cases k <;> rfl

end Sys2Proof.Machine
end

