-- ==== Sys2Proof/Tests/Slice0.lean ====
section
/-! SUPPORT. Tests whose expected results are taken from spec/ (95_test_vectors.md where it has a vector, else the rule that
is named), and a witness for the hypotheses of every statement that has some. -/

namespace Sys2Proof.Tests

open Sys2Proof.Machine Sys2Proof.Safety Sys2Proof.Claims

/-! ### Helpers -/

/-- The next state of an outcome. -/
def nextOf : Host.Outcome State Fault Refusal → Option State
  | .next s => some s
  | .fault _ => none
  | .refused _ => none

/-- `s` with a command word and then these answer words to come. -/
def offered (s : State) (w : CommandWord) (ws : List AnswerWord) : State :=
  { s with inbox := .word (.host w) :: answers ws }

/-- `s` with a word of the model's own channel and then these answer words to come. -/
def called (s : State) (p : PortWord) (ws : List AnswerWord) : State := { s with inbox := .word p :: answers ws }

/-- One step on a command word and its answers. -/
def run (s : State) (w : CommandWord) (ws : List AnswerWord) : Option State := nextOf (step (offered s w ws))

/-- One step on an internal row and its answers. -/
def runRow (s : State) (p : PortWord) (ws : List AnswerWord) : Option State := nextOf (step (called s p ws))

/-- A response, in the order of 30_encoding.md R74. -/
def response (st : Status) (data : BitVec 64) (beats : List DeviceId) : Response :=
  { status := st, data := data, beats := beats }

/-- `Xfer(b, Captured(c))`. -/
def xfer (b c : Byte) : TransportEvent := .xfer b (.captured c)

/-- The identifiers of 95_test_vectors.md part 2. -/
def idA : DeviceId := 0x5666554433221128#64
def idB : DeviceId := 0x3866554433221328#64
def idC : DeviceId := 0x9D0FEEDDCCBBAA10#64

/-- An idle engine in `DATA_MODE` with two entries and an old error, the search state of an enumeration that is over. -/
def idle2 : State := { State.reset with
  mode := .dataMode, errCode := .noBus, reg := [idC, idA], ld := some 9, curId := idA, lz := some 9, pos := 64#7 }

/-- An engine in a search pass: the first read of position `k` was `a`, the second is outstanding. -/
def atSecondRead (ld : Option WirePos) (id : DeviceId) (k : BitVec 7) (a : Bool) : State := { idle2 with
  errCode := .noError, ld := ld, curId := id, lz := none, pos := k
  job := some (.transceiving (.search .discover (.secondRead a))) }

/-- An engine whose pass has one write-back left. -/
def atLastSlot (reg : List DeviceId) (id : DeviceId) (lz : Option WirePos) : State := { idle2 with
  errCode := .noError, reg := reg, curId := id, lz := lz, pos := 63#7
  job := some (.transceiving (.search .discover (.writeBack false))) }

/-- An engine in a byte transfer. -/
def inReadByte : State := { idle2 with job := some (.transceiving .readSlot), bitcnt := 7#4, sh := 0x40#8 }

/-- An engine whose DISCOVER waits for its first answer. -/
def inDiscover : State := startDiscover .discover idle2

/-- An engine with one internal procedure outstanding. -/
def inReadBit : State := { idle2 with job := some (.transceiving (.alone .readBit)) }

/-- What an engine in a search pass wrote: the job, the search bit at the position, and `lz`. -/
def written (o : Host.Outcome State Fault Refusal) (k : Nat) : Option (Option Job × Bool × Option WirePos) :=
  (nextOf o).map fun t => (t.job, DeviceId.wireBit t.curId k, t.lz)

/-- The job that writes `d` back. -/
def writingBack (d : Bool) : Option Job := some (.transceiving (.search .discover (.writeBack d)))

/-! ### Decoding: words written out from 30_encoding.md -/

/-- V1 to V9. -/
theorem test_decode_commands :
    decodeHost 0x0100#16 = .init 0#8 ∧ decodeHost 0x0200#16 = .reset 0#8 ∧ decodeHost 0x0300#16 = .discover 0#8 ∧
    decodeHost 0x0400#16 = .deviceCount 0#8 ∧ decodeHost 0x0500#16 = .devices 0#8 ∧
    decodeHost 0x0601#16 = .device 1#8 ∧ decodeHost 0x0700#16 = .lastError 0#8 ∧
    decodeHost 0x0844#16 = .writeByte 0x44#8 ∧ decodeHost 0x0900#16 = .readByte 0#8 ∧
    decodeHost 0x0A00#16 = .skipRom 0#8 ∧ decodeHost 0x0B00#16 = .readRom 0#8 ∧
    decodeHost 0x0C00#16 = .searchRom 0#8 ∧ decodeHost 0x0D00#16 = .matchRom 0#8 := by decide

/-- V10, V11 and the edges of the reserved ranges (R82). -/
theorem test_decode_reserved :
    decodeHost 0x02AB#16 = .reset 0xAB#8 ∧ decodeHost 0x0000#16 = .reserved00 0#8 ∧
    decodeHost 0x0E00#16 = .reserved0E 0#8 ∧ decodeHost 0x0F12#16 = .reserved0F 0x12#8 ∧
    decodeHost 0x1300#16 = .reserved10to1F 3#4 0#8 ∧ decodeHost 0x1FFF#16 = .reserved10to1F 0xF#4 0xFF#8 ∧
    decodeHost 0x2000#16 = .reserved20to3F 0#5 0#8 ∧ decodeHost 0x3F01#16 = .reserved20to3F 0x1F#5 1#8 ∧
    decodeHost 0x4100#16 = .reserved40to7F 1#6 0#8 ∧ decodeHost 0x7F00#16 = .reserved40to7F 0x3F#6 0#8 ∧
    decodeHost 0x8000#16 = .reserved80toFF 0#7 0#8 ∧ decodeHost 0xFF44#16 = .reserved80toFF 0x7F#7 0x44#8 := by decide

/-- R78, R80. -/
theorem test_decode_requests :
    (decode (.call .plain 0b000000000#9)).toOption = some (.configure .resetMode) ∧
    (decode (.call .plain 0b000000001#9)).toOption = some (.configure .dataMode) ∧
    (decode (.call .plain 0b101010101#9)).toOption = some (.transceive 0x55#8) ∧
    (decode (.call .resetPulse 0b111110000#9)).toOption = some .resetPulse ∧
    (decode (.call .writeBit 0b111111111#9)).toOption = some .writeBit1 ∧
    (decode (.call .writeBit 0b100000000#9)).toOption = some .writeBit0 ∧
    (decode (.call .readBit 0b111111111#9)).toOption = some .readBit := by decide

/-- R79, R83. -/
theorem test_decode_answers :
    decodeAnswer 0b0011111110#10 = .xaCaptured 0xFE#8 ∧ decodeAnswer 0b0100000000#10 = .xaNothingOrDone ∧
    decodeAnswer 0b1000000000#10 = .xaFailure 0#8 ∧ decodeAnswer 0b1000000001#10 = .xaFailure 1#8 ∧
    decodeAnswer 0b0100000001#10 = .xaReserved 1#2 1#8 ∧ decodeAnswer 0b1100000000#10 = .xaReserved 3#2 0#8 := by decide

/-- R77. -/
theorem test_decode_rom_bytes :
    (decode (.romByte 0xCC#8)).toOption = some .romSkip ∧ (decode (.romByte 0x33#8)).toOption = some .romRead ∧
    (decode (.romByte 0x55#8)).toOption = some .romMatch ∧ (decode (.romByte 0xF0#8)).toOption = some .romSearch := by
  decide

/-- Words that spell no row: R78 "never emits", R80, R77. -/
theorem test_decode_rejects :
    decode (.call .plain 0b000000010#9) = .error (.malformedRequest 0b000000010#9) ∧
    decode (.call .plain 0b011111111#9) = .error (.malformedRequest 0b011111111#9) ∧
    decode (.call .resetPulse 0x1F1#9) = .error (.notSlotPattern .resetPulse 0x1F1#9) ∧
    decode (.call .readBit 0x100#9) = .error (.notSlotPattern .readBit 0x100#9) ∧
    decode (.romByte 0x44#8) = .error (.notRomCommand 0x44#8) := ⟨rfl, rfl, rfl, rfl, rfl⟩

/-- WellFormed refuses the reserved answers whose bits are another row's (R79), and only those. -/
theorem smoke_wellFormed :
    (Instr.xaReserved 0#2 0x12#8).wellFormed = false ∧ (Instr.xaReserved 1#2 0#8).wellFormed = false ∧
    (Instr.xaReserved 2#2 0xFF#8).wellFormed = false ∧ (Instr.xaReserved 1#2 1#8).wellFormed = true ∧
    (Instr.xaReserved 3#2 0#8).wellFormed = true := by decide

/-- The host's table words: each format by its width. -/
theorem test_decodeTableWord :
    decodeTableWord 16 0x0844 = some (.writeByte 0x44#8) ∧ decodeTableWord 10 0x0FE = some (.xaCaptured 0xFE#8) ∧
    decodeTableWord 9 0x001 = some (.configure .dataMode) ∧ decodeTableWord 9 0x1F0 = some .resetPulse ∧
    decodeTableWord 8 0x33 = some .romRead ∧ decodeTableWord 8 0x44 = none ∧ decodeTableWord 7 0 = none := by decide

/-- A table word placed after reset is what the next step runs: `CNT` after a hardware reset (V128). -/
theorem test_withFetchWord :
    (nextOf (step (State.reset.withFetchWord 16 0x0400))).map State.responses = some [response .ok 0#64 []] := by decide

/-- The script lines of V3, V6 and V8 (R86), and an operand out of range. -/
theorem test_script :
    assembleLine "DISC" none = some 0x0300#16 ∧ assembleLine "DEV" (some 1) = some 0x0601#16 ∧
    assembleLine "WRB" (some 0x44) = some 0x0844#16 ∧ assembleLine "WRB" (some 256) = none := by decide

/-! ### Host commands -/

/-- V20: RESET with a presence pulse clears the error of before. -/
theorem test_reset_presence : (run idle2 0x0200#16 [0x100, 0x0E0, 0x100]).map (fun t => (t.responses, t.errCode, t.mode, t.trace)) =
    some ([response .ok 0#64 []], .noError, .dataMode, [.cfg .resetMode, xfer 0xF0#8 0xE0#8, .cfg .dataMode]) := by decide

/-- V22, V23. -/
theorem test_reset_false :
    (run idle2 0x0200#16 [0x100, 0x100, 0x100]).map (fun t => (t.responses, t.errCode)) =
      some ([response .stFalse 0#64 []], .noBus) ∧
    (run idle2 0x0200#16 [0x100, 0x0F0, 0x100]).map (fun t => (t.responses, t.errCode)) =
      some ([response .stFalse 0#64 []], .noDevices) := by decide

/-- V46: no device, and the old registry is gone. -/
theorem test_discover_no_device : (run idle2 0x0300#16 [0x100, 0x0F0, 0x100]).map (fun t => (t.responses, t.reg, t.errCode)) =
    some ([response .stFalse 0#64 []], [], .noDevices) := by decide

/-- V48: a presence pulse, and then nothing answers the search. -/
theorem test_discover_anomaly :
    (run State.reset 0x0300#16 [0x100, 0x0E0, 0x100, 0, 0, 0, 0, 0x0FF, 0x0FF, 0x0FF, 0x0FF, 0x0FF, 0x0FF]).map
      (fun t => (t.responses, t.errCode, t.mode, t.trace.length)) =
    some ([response .stFalse 0#64 []], .noDevices, .dataMode, 13) := by decide

/-- P3 line 1: INITIALIZE on a floating line. -/
theorem test_init_floating : (run State.reset 0x0100#16 [0x100, 0x100, 0x100]).map (fun t => (t.responses, t.errCode, t.trace)) =
    some ([response .stFalse 0#64 []], .noBus, [.cfg .resetMode, .xfer 0xF0#8 .nothing, .cfg .dataMode]) := by decide

/-- R152: after its first RESET, INITIALIZE has cleared the registry and resets the bus again. -/
theorem test_init_enumerates : (run idle2 0x0100#16 [0x100, 0x0E0, 0x100]).map (fun t => (t.job, t.reg, t.request hw)) =
    some (some (.configuring (.resetEntry (.pass .init))), [], some (.dataMode, .configure .resetMode)) := by decide

/-- V120, V127. -/
theorem test_deviceCount :
    (run idle2 0x0400#16 []).map State.responses = some [response .ok 2#64 []] ∧
    (run idle2 0x04FF#16 []).map State.responses = some [response .ok 2#64 []] := by decide

/-- V121. -/
theorem test_devices : (run idle2 0x0500#16 []).map State.responses =
    some [response .ok 2#64 [0x9D0FEEDDCCBBAA10#64, 0x5666554433221128#64]] := by decide

/-- V122 to V125. -/
theorem test_device :
    (run idle2 0x0600#16 []).map State.responses = some [response .ok 0x9D0FEEDDCCBBAA10#64 []] ∧
    (run idle2 0x0601#16 []).map State.responses = some [response .ok 0x5666554433221128#64 []] ∧
    (run idle2 0x0602#16 []).map State.responses = some [response .notFound 0#64 []] ∧
    (run idle2 0x06FF#16 []).map State.responses = some [response .notFound 0#64 []] := by decide

/-- P3 line 2. -/
theorem test_lastError : (run idle2 0x0700#16 []).map State.responses = some [response .ok 2#64 []] := by decide

/-- V12. -/
theorem test_writeByte : (run idle2 0x0844#16 [0, 0, 0x0FF, 0, 0, 0, 0x0FF, 0]).map (fun t => (t.responses, t.trace)) =
    some ([response .ok 0#64 []],
      [xfer 0 0, xfer 0 0, xfer 0xFF#8 0xFF#8, xfer 0 0, xfer 0 0, xfer 0 0, xfer 0xFF#8 0xFF#8, xfer 0 0]) := by decide

/-- V91: a failure at the third slot. -/
theorem test_writeByte_failure : (run idle2 0x0844#16 [0, 0, 0x200]).map (fun t => (t.responses, t.trace, t.errCode, t.mode)) =
    some ([response .xport 0#64 []], [xfer 0 0, xfer 0 0, .xferFail 0xFF#8], .noBus, .dataMode) := by decide

/-- V89: only 0xFF reads as 1. -/
theorem test_readByte : (run idle2 0x0900#16 [0x0FF, 0, 0x0FF, 0x07F, 0x0FD, 0x0FF, 0x0FC, 0x0FF]).map State.responses =
    some [response .ok 0xA5#64 []] := by decide

/-- V90: no partial byte. -/
theorem test_readByte_failure : (run idle2 0x0900#16 [0x0FF, 0x0FF, 0x0FF, 0x200]).map (fun t => (t.responses, t.trace)) =
    some ([response .xport 0#64 []],
      [xfer 0xFF#8 0xFF#8, xfer 0xFF#8 0xFF#8, xfer 0xFF#8 0xFF#8, .xferFail 0xFF#8]) := by decide

/-- The bytes a trace sent. -/
def sent (t : State) : List Byte := t.trace.filterMap fun
  | .xfer b _ => some b
  | .xferFail b => some b
  | .cfg _ => none
  | .cfgFail _ => none

/-- V30 to V33, the slots of the four ROM commands. -/
theorem test_rom_commands :
    (run idle2 0x0A00#16 (List.replicate 8 0x0FF)).map sent = some [0, 0, 0xFF, 0xFF, 0, 0, 0xFF, 0xFF] ∧
    (run idle2 0x0B00#16 (List.replicate 8 0x0FF)).map sent = some [0xFF, 0xFF, 0, 0, 0xFF, 0xFF, 0, 0] ∧
    (run idle2 0x0D00#16 (List.replicate 8 0x0FF)).map sent = some [0xFF, 0, 0xFF, 0, 0xFF, 0, 0xFF, 0] ∧
    (run idle2 0x0C00#16 (List.replicate 8 0x0FF)).map sent = some [0, 0, 0, 0, 0xFF, 0xFF, 0xFF, 0xFF] := by decide

/-- V11: rejected, and nothing else, with the registry and the error as they were. -/
theorem test_reserved : run idle2 0x8000#16 [] = some { idle2 with responses := [response .reject 0#64 []] } := by decide

/-- The busy guard of 95_test_vectors.md 3.1: `CNT` during a DISCOVER. -/
theorem test_busy : run inDiscover 0x0400#16 [] = some { inDiscover with responses := [response .reject 0#64 []] } := by
  decide

/-- V141: a hardware reset in a DISCOVER. -/
theorem test_hardReset_in_discover : nextOf (step { inDiscover with inbox := [.hardReset] }) = some State.reset := by
  decide

/-! ### Internal rows and answers -/

/-- V60, V62. -/
theorem test_configure :
    (runRow State.reset (.call .plain 0x000#9) [0x100]).map (fun t => (t.mode, t.trace)) =
      some (.resetMode, [.cfg .resetMode]) ∧
    (runRow idle2 (.call .plain 0x000#9) [0x200]).map (fun t => (t.mode, t.trace, t.ret)) =
      some (.unconf, [.cfgFail .resetMode], some (.transportError (.configure .resetMode))) := by decide

/-- V63: a kind 0 answer to a `Configure` is done. -/
theorem test_configure_captured : (runRow State.reset (.call .plain 0x001#9) [0x0AB]).map (fun t => (t.mode, t.ret)) =
    some (.dataMode, some .done) := by decide

/-- V64, V67. -/
theorem test_transceive :
    (runRow idle2 (.call .plain 0x1FF#9) [0x0FE]).map (fun t => (t.ret, t.trace)) =
      some (some (.capture (.captured 0xFE#8)), [xfer 0xFF#8 0xFE#8]) ∧
    (runRow idle2 (.call .plain 0x1FF#9) [0x3FF]).map (fun t => (t.ret, t.mode)) =
      some (some (.transportError (.transceive 0xFF#8)), .dataMode) := by decide

/-- V65 through the reset pulse: `Nothing` is NO_BUS (R121). -/
theorem test_resetPulse : (runRow idle2 (.call .resetPulse 0x1F0#9) [0x100]).map (fun t => (t.ret, t.trace, t.errCode)) =
    some (some (.presence .noBus), [.xfer 0xF0#8 .nothing], .noBus) := by decide

/-- V78, V79: the answer to a write slot is not looked at. -/
theorem test_writeBit :
    (runRow idle2 (.call .writeBit 0x1FF#9) [0x000]).map (fun t => (t.ret, t.trace)) = some (some .done, [xfer 0xFF#8 0]) ∧
    (runRow idle2 (.call .writeBit 0x100#9) [0x100]).map (fun t => (t.ret, t.trace)) =
      some (some .done, [.xfer 0 .nothing]) := by decide

/-- V70, V73. -/
theorem test_readBit :
    (runRow idle2 (.call .readBit 0x1FF#9) [0x0FF]).map State.ret = some (some (.bit true)) ∧
    (runRow idle2 (.call .readBit 0x1FF#9) [0x0FD]).map State.ret = some (some (.bit false)) := by decide

/-- R77: the slots of the byte 0x55. -/
theorem test_romMatch : (runRow idle2 (.romByte 0x55#8) (List.replicate 8 0x0FF)).map (fun t => (sent t, t.ret)) =
    some ([0xFF, 0, 0xFF, 0, 0xFF, 0, 0xFF, 0], some .done) := by decide

/-- V100, V101: agreement. -/
theorem test_search_agreement :
    written (exec (.xaCaptured 0xFF#8) (atSecondRead (some 9) idA 3 false)) 3 = some (writingBack false, false, none) ∧
    written (exec (.xaCaptured 0xFE#8) (atSecondRead none 0 3 true)) 3 = some (writingBack true, true, none) := by decide

/-- V102, V103: the 0 branch, recorded. -/
theorem test_search_default :
    written (exec (.xaCaptured 0xFE#8) (atSecondRead none idA 3 false)) 3 = some (writingBack false, false, some 3) ∧
    written (exec (.xaCaptured 0xFE#8) (atSecondRead (some 2) idA 63 false)) 63 =
      some (writingBack false, false, some 63) := by decide

/-- V104, V105, V106: at `ld` the 1 branch; before it, the previous pass again. -/
theorem test_search_replay :
    written (exec (.xaCaptured 0xFE#8) (atSecondRead (some 9) idA 9 false)) 9 = some (writingBack true, true, none) ∧
    written (exec (.xaCaptured 0xFE#8) (atSecondRead (some 9) idA 4 false)) 4 = some (writingBack false, false, some 4) ∧
    written (exec (.xaCaptured 0xFE#8) (atSecondRead (some 9) idA 3 false)) 3 = some (writingBack true, true, none) := by
  decide

/-- V107: (1,1). -/
theorem test_search_anomaly : (nextOf (exec (.xaCaptured 0xFF#8) (atSecondRead none 0 0 true))).map
    (fun t => (t.job, t.errCode, t.responses)) =
    some (none, .noDevices, [response .stFalse 2#64 [idC, idA]]) := by decide

/-- V51: an identifier that is already there is not stored again. -/
theorem test_duplicate : (nextOf (exec (.xaCaptured 0#8) (atLastSlot [idA] idA none))).map (fun t => (t.reg, t.responses)) =
    some ([idA], [response .ok 1#64 [idA]]) := by decide

/-- V66, R172: a failure in a search. -/
theorem test_failure : (nextOf (exec (.xaFailure 0#8) (atLastSlot [idA] idB none))).map (fun t => (t.reg, t.responses, t.trace)) =
    some ([idA], [response .xport 0#64 []], [.xferFail 0#8]) := by decide

/-- R83: an answer outside the table. -/
theorem test_reserved_answer : (nextOf (exec (.xaReserved 3#2 7#8) inReadByte)).map State.responses =
    some [response .xport 0#64 []] := by decide

/-- R79, R114: the last slot of a byte answered with nothing. -/
theorem test_nothing : (nextOf (exec .xaNothingOrDone inReadByte)).map State.responses =
    some [response .ok 0x20#64 []] := by decide

/-- R50, R56, R58: byte 7 of entry 1 and the family code of entry 0. -/
theorem test_registry_bytes : Registry.memByte [idC, idA] 15 = some 0x56#8 ∧ Registry.memByte [idC, idA] 0 = some 0x10#8 ∧
    Registry.memByte [idC, idA] 16 = none ∧ DeviceId.familyCode idA = 0x28#8 := by decide

/-! ### Witnesses: for each statement with hypotheses, a concrete case that meets them all -/

theorem witness_DecodeOfEncode : (Instr.device 0xFF#8).wellFormed = true ∧ (Instr.reserved80toFF 0x7F#7 0#8).wellFormed = true ∧
    (Instr.xaReserved 1#2 1#8).wellFormed = true := by decide

theorem witness_EncodeOfDecode : decode (.answer 0x101#10) = .ok (.xaReserved 1#2 1#8) ∧
    decode (.call .writeBit 0x100#9) = .ok .writeBit0 := ⟨rfl, rfl⟩

theorem witness_CommandSelectedByOpc : ((0x0D00#16, Instr.matchRom) : CommandWord × (Byte → Instr)) ∈ commandRows ∧
    (0x0DFF#16 : CommandWord) &&& 0xFF00#16 = 0x0D00#16 := ⟨by simp [commandRows], by decide⟩

/-- The first reserved `OPC`, and the two ends of the second range. -/
theorem witness_ReservedWordRejected :
    ((offered idle2 0x0000#16 []).inbox = .word (.host 0x0000#16) :: [] ∧ (0x0000#16).extractLsb' 8 8 = 0x00#8) ∧
    0x0E#8 ≤ (0x0E00#16).extractLsb' 8 8 ∧ 0x0E#8 ≤ (0xFFFF#16).extractLsb' 8 8 := by decide

theorem witness_ReservedRowsReject : isReserved (.reserved00 0#8) = true ∧ isReserved (.reserved80toFF 0x7F#7 0#8) = true := by
  decide

/-- A long and a short mnemonic, the operands at the two sides of the limit, eight bytes. -/
theorem witness_ScriptForms : (["MATCH_ROM", "MATCH"], 0x0D#8) ∈ scriptRows ∧ "MATCH" ∈ ["MATCH_ROM", "MATCH"] ∧
    255 < 256 ∧ 256 ≤ 256 ∧ (List.replicate 8 (0xA5#8 : Byte)).length = 8 := by decide

theorem witness_StepRunsDecoded : (offered idle2 0x0601#16 []).inbox = .word (.host 0x0601#16) :: [] ∧
    decode (.host 0x0601#16) = .ok (.device 1#8) := ⟨rfl, rfl⟩

theorem witness_HardResetAtAnyTime : ({ inDiscover with inbox := [.hardReset] } : State).inbox = .hardReset :: [] := rfl

theorem witness_HardResetKeepsTheOutside : ({ inDiscover with inbox := [.hardReset] } : State).inbox = .hardReset :: [] := rfl

theorem witness_WaitsWithoutBound : inDiscover.inbox = [] ∧ inDiscover.busy = true := by decide

/-- A busy engine, and an idle one with each end of the reserved ranges. -/
theorem witness_RejectedWordDisturbsNothing : (offered inDiscover 0x0400#16 []).inbox = .word (.host 0x0400#16) :: [] ∧
    notAccepted (offered inDiscover 0x0400#16 []) 0x0400#16 ∧ notAccepted (offered idle2 0x00FF#16 []) 0x00FF#16 ∧
    notAccepted (offered idle2 0x0E00#16 []) 0x0E00#16 ∧ notAccepted (offered idle2 0xFF00#16 []) 0xFF00#16 := by
  unfold notAccepted
  decide

theorem witness_OutsideNeverStopsTheMachine :
    ∀ x ∈ (offered inDiscover 0xFFFF#16 [0x3FF#10]).inbox ++ [.hardReset], fromOutside x = true := by decide

theorem witness_LateAnswersMakeNoDifference : (offered idle2 0x0200#16 []).inbox = [.word (.host 0x0200#16)] := rfl

/-- The invariant in the middle of a search, and a step from there. -/
theorem witness_StepKeepsInv :
    let s : State := { atSecondRead none 0 63#7 false with reg := [], inbox := answers [0x0FE#10] }
    Inv s ∧ ∃ t, step s = .next t := by
  refine ⟨⟨empty_registryForm hw, by decide, by decide, ?_⟩, _, rfl⟩
  intro j hj
  cases hj
  exact ⟨by decide, rfl, rfl, by simp [atSecondRead]⟩

/-- Four different inboxes meet the four clauses; each class of reset capture meets the first. -/
theorem witness_ResetCompletes : idle2.job = none ∧
    ({ idle2 with inbox := brings [.nothing, .captured 0xE0#8, .captured 0#8] ++ [.hardReset] } : State).inbox =
      brings [.nothing, .captured 0xE0#8, .captured 0#8] ++ [.hardReset] ∧
    ({ idle2 with inbox := answers [0x200#10] } : State).inbox = answers [2#2 ++ 0#8] ++ [] ∧
    ({ idle2 with inbox := answers [0x100#10, 0x200#10] } : State).inbox = answers [answerWord .nothing, 2#2 ++ 0#8] ++ [] ∧
    ({ idle2 with inbox := answers [0x100#10, 0x0F0#10, 0x2FF#10] } : State).inbox =
      answers [answerWord .nothing, answerWord (.captured 0xF0#8), 2#2 ++ 0xFF#8] ++ [] ∧
    resetOutcome (.captured 0xE0#8) = (.ok, .noError) ∧ resetOutcome (.captured 0xF0#8) = (.stFalse, .noDevices) ∧
    resetOutcome .nothing = (.stFalse, .noBus) := by decide

/-- All eight slots, and a failure at the first and at the last. -/
theorem witness_ByteSendingCommandsComplete : sends (.matchRom 0#8) = some 0x55#8 ∧ sends (.writeByte 0xFF#8) = some 0xFF#8 ∧
    idle2.job = none ∧ (List.replicate 8 Capture.nothing).length = 8 ∧
    ({ idle2 with inbox := brings (List.replicate 8 .nothing) } : State).inbox = brings (List.replicate 8 .nothing) ++ [] ∧
    ([] : List Capture).length < 8 ∧ (List.replicate 7 Capture.nothing).length < 8 ∧
    ({ idle2 with inbox := answers [0x200#10] } : State).inbox = brings [] ++ .word (.answer (2#2 ++ 0#8)) :: [] ∧
    ({ idle2 with inbox := brings (List.replicate 7 .nothing) ++ answers [0x200#10] } : State).inbox =
      brings (List.replicate 7 .nothing) ++ .word (.answer (2#2 ++ 0#8)) :: [] := by decide

theorem witness_ReadByteCompletes : idle2.job = none ∧ (List.replicate 8 (Capture.captured 0xFF#8)).length = 8 ∧
    ({ idle2 with inbox := brings (List.replicate 8 (.captured 0xFF#8)) } : State).inbox =
      brings (List.replicate 8 (.captured 0xFF#8)) ++ [] ∧
    (List.replicate 7 (Capture.captured 0xFF#8)).length < 8 ∧
    ({ idle2 with inbox := brings (List.replicate 7 (.captured 0xFF#8)) ++ answers [0x200#10] } : State).inbox =
      brings (List.replicate 7 (.captured 0xFF#8)) ++ .word (.answer (2#2 ++ 0#8)) :: [] := by decide

/-- The captures of 95_test_vectors.md V15, which are the loopback of 0x44. -/
def loopback44 : List Capture := [0xFE#8, 0xFE#8, 0xFF#8, 0xFE#8, 0xFE#8, 0xFE#8, 0xFF#8, 0xFE#8].map .captured

/-- The events of P4 line 1, and the captures that give their bits back. -/
theorem witness_LoopbackRoundTrip : idle2.job = none ∧ (List.replicate 8 Capture.nothing).length = 8 ∧
    ({ idle2 with inbox := brings (List.replicate 8 .nothing) } : State).inbox = brings (List.replicate 8 .nothing) ++ [] ∧
    loopback44.map readsOne = (slotEvents 0x44#8 (List.replicate 8 .nothing)).map wroteOne := by decide

/-- The positions of V108: what one device with identifier `id` answers. -/
def deviceAnswers (id : DeviceId) : List PositionAnswers := (List.range 64).map fun k =>
  if DeviceId.wireBit id k then ⟨.captured 0xFF#8, .captured 0xFE#8, .captured 0xFF#8⟩
  else ⟨.captured 0xFE#8, .captured 0xFF#8, .captured 0#8⟩

theorem deviceAnswers_agreesWith : agreesWith idA (deviceAnswers idA) := by
  unfold agreesWith
  decide

theorem witness_DiscoverFindsTheOnlyDevice :
    let queue := brings (passCaptures .nothing (.captured 0xE0#8) .nothing (List.replicate 8 .nothing) (deviceAnswers idA))
    idle2.job = none ∧ (resetOutcome (.captured 0xE0#8)).1 = .ok ∧ (List.replicate 8 Capture.nothing).length = 8 ∧
    agreesWith idA (deviceAnswers idA) ∧ ({ idle2 with inbox := queue } : State).inbox = queue ++ [] :=
  ⟨rfl, rfl, rfl, deviceAnswers_agreesWith, (List.append_nil _).symm⟩

theorem witness_InitializeFindsTheOnlyDevice :
    let queue := brings ([.nothing, .captured 0xE0#8, .nothing] ++
      passCaptures .nothing (.captured 0xE0#8) .nothing (List.replicate 8 .nothing) (deviceAnswers idA))
    idle2.job = none ∧ (resetOutcome (.captured 0xE0#8)).1 = .ok ∧ (List.replicate 8 Capture.nothing).length = 8 ∧
    agreesWith idA (deviceAnswers idA) ∧ ({ idle2 with inbox := queue } : State).inbox = queue ++ [] :=
  ⟨rfl, rfl, rfl, deviceAnswers_agreesWith, (List.append_nil _).symm⟩

theorem witness_InitializeStopsAtFailedReset : idle2.job = none ∧ (resetOutcome .nothing).1 = .stFalse ∧
    (resetOutcome (.captured 0xF0#8)).1 = .stFalse ∧
    ({ idle2 with inbox := answers [0x100#10, 0x0F0#10, 0x100#10] } : State).inbox =
      brings [.nothing, .captured 0xF0#8, .nothing] ++ [] := by decide

theorem witness_RegistryReadsComplete : idle2.job = none := rfl

/-- The last valid index, the first that is not, and the empty registry. -/
theorem witness_DeviceCompletes : idle2.job = none ∧ idle2.reg.length ≤ 256 ∧ (1#8).toNat < idle2.reg.length ∧
    idle2.reg.length ≤ (2#8).toNat ∧ State.reset.job = none ∧ State.reset.reg.length ≤ (0#8).toNat := by decide

theorem witness_ConfigureCompletes : idle2.job = none ∧
    ({ idle2 with inbox := answers [0x100#10] } : State).inbox = brings [.nothing] ++ [] ∧
    ({ idle2 with inbox := answers [0x200#10] } : State).inbox = answers [2#2 ++ 0#8] ++ [] := by decide

theorem witness_SlotRowsComplete : idle2.job = none ∧
    ({ idle2 with inbox := answers [0x0FE#10] } : State).inbox = brings [.captured 0xFE#8] ++ [] := by decide

theorem witness_RomBytesComplete : romRowByte .romSearch = some 0xF0#8 ∧ idle2.job = none ∧
    (List.replicate 8 Capture.nothing).length = 8 ∧
    ({ idle2 with inbox := brings (List.replicate 8 .nothing) } : State).inbox = brings (List.replicate 8 .nothing) ++ [] := by decide

theorem witness_AnswerTakenByItsRequest : inDiscover.job = some (.configuring (.resetEntry (.pass .discover))) ∧
    inReadByte.job = some (.transceiving .readSlot) := by decide

theorem witness_FailureEndsTheCommand : inReadByte.job = some (.transceiving .readSlot) ∧
    (Job.transceiving .readSlot).isAlone = false ∧ inDiscover.job = some (.configuring (.resetEntry (.pass .discover))) ∧
    (Job.configuring (.resetEntry (.pass .discover))).isAlone = false := by decide

theorem witness_FailureEndsALoneProcedure : inReadBit.job = some (.transceiving (.alone .readBit)) ∧
    (Job.transceiving (.alone .readBit)).isAlone = true := by decide

/-- The two words just outside the table, at its kind 1 and its kind 3. -/
theorem witness_AnswersOutsideTheTableFail :
    (∀ r : Capture, (0x101#10 : AnswerWord) ≠ answerWord r) ∧ ∀ r : Capture, (0x300#10 : AnswerWord) ≠ answerWord r := by
  have h1 : ∀ c : Byte, (0x101#10 : AnswerWord) ≠ 0#2 ++ c := by decide
  have h3 : ∀ c : Byte, (0x300#10 : AnswerWord) ≠ 0#2 ++ c := by decide
  exact ⟨fun | .captured c => h1 c | .nothing => by decide, fun | .captured c => h3 c | .nothing => by decide⟩

theorem witness_AnswerToNothing : idle2.job = none ∧ decode (.answer 0x0FF#10) = .ok (.xaCaptured 0xFF#8) := ⟨rfl, rfl⟩

/-- One state for each clause: agreement on 1 and on 0, a discrepancy without `ld`, before it, at it and behind it, at the first
and at the last position; an empty capture reads as 0. -/
theorem witness_SearchDirection :
    let job (a : Bool) : Option Job := some (.transceiving (.search .discover (.secondRead a)))
    let one : Capture := .captured 0xFF#8
    let zero : Capture := .nothing
    ((atSecondRead none idA 63#7 true).job = job true ∧ (63#7).toNat < 64 ∧ ¬ (true = true ∧ readsOne zero = true)) ∧
    ((atSecondRead none idA 0#7 false).job = job false ∧ (0#7).toNat < 64 ∧ ¬ (false = true ∧ readsOne one = true)) ∧
    ((atSecondRead none idA 0#7 false).ld = none ∧ readsOne one = true ∧ readsOne zero = false) ∧
    ((atSecondRead (some 63) idA 0#7 false).ld = some 63 ∧ (0#7).toNat < (63#6).toNat) ∧
    ((atSecondRead (some 63) idA 63#7 false).ld = some 63 ∧ (63#7).toNat = (63#6).toNat) ∧
    ((atSecondRead (some 0) idA 1#7 false).ld = some 0 ∧ (0#6).toNat < (1#7).toNat) := by decide

theorem witness_SearchAnomaly :
    (atSecondRead none 0 0 true).job = some (.transceiving (.search .discover (.secondRead true))) := rfl

/-- Overflow in a registry that is full, the end, and another pass. -/
theorem witness_PassCompletes :
    let full := List.replicate Config.capacity idA
    ((atLastSlot full idB none).job = some (.transceiving (.search .discover (.writeBack false))) ∧
      (atLastSlot full idB none).pos = 63#7 ∧ idB ∉ full ∧ full.length = Config.capacity) ∧
    ((atLastSlot [] idB none).curId ∈ (atLastSlot [] idB none).reg ∨ (atLastSlot [] idB none).reg.length < Config.capacity) ∧
    (atLastSlot [] idB none).lz = none ∧
    ((atLastSlot [idA] idA (some 63)).curId ∈ (atLastSlot [idA] idA (some 63)).reg ∧
      (atLastSlot [idA] idA (some 63)).lz = some 63) := by
  refine ⟨⟨rfl, rfl, ?_, List.length_replicate⟩, .inr (Nat.succ_pos _), rfl, List.mem_singleton.mpr rfl, rfl⟩
  intro h
  exact absurd (List.eq_of_mem_replicate h) (by decide)

theorem witness_EnumerationNeedNotEnd (ws : List AnswerWord) : ({ idle2 with inbox := answers ws } : State).job = none ∧
    ({ idle2 with inbox := answers ws } : State).inbox = answers ws := ⟨rfl, rfl⟩

/-- A DISCOVER that ends at a failure, and one that ends at a bus without devices. -/
theorem witness_DiscoverEndings :
    (∃ t, exec (.discover 0#8) { idle2 with inbox := answers [0x200#10] } = .next t ∧ t.job = none) ∧
    ∃ t, exec (.discover 0#8) { idle2 with inbox := answers [0x100#10, 0x0F0#10, 0x100#10] } = .next t ∧ t.job = none :=
  ⟨⟨_, rfl, rfl⟩, _, rfl, rfl⟩

/-- A RESET for each of the three endings. -/
theorem witness_ResetStatusMatchesErrorRecord :
    (∃ t, exec (.reset 0#8) { idle2 with inbox := answers [0x100#10, 0x0E0#10, 0x100#10] } = .next t ∧ t.job = none) ∧
    (∃ t, exec (.reset 0#8) { idle2 with inbox := answers [0x100#10, 0x100#10, 0x100#10] } = .next t ∧ t.job = none) ∧
    ∃ t, exec (.reset 0#8) { idle2 with inbox := answers [0x200#10] } = .next t ∧ t.job = none :=
  ⟨⟨_, rfl, rfl⟩, ⟨_, rfl, rfl⟩, _, rfl, rfl⟩

/-- RESET with all its answers, with a failure, and with none. -/
theorem witness_CommandsFollowPseudocode : ∃ p, Pseudo.command hw (.reset 0#8) = some p ∧ idle2.job = none ∧
    ({ idle2 with inbox := answers [0x100#10] } : State).inbox = answers [0x100#10] ++ [] ∧
    (∃ r t q, p idle2 [0x100#10, 0x0E0#10, 0x100#10] = .done r t q) ∧ (∃ t q, p idle2 [0x200#10] = .raised t q) ∧
    ∃ r t, p idle2 [] = .waiting r t :=
  ⟨_, rfl, rfl, rfl, ⟨_, _, _, rfl⟩, ⟨_, _, rfl⟩, _, _, rfl⟩

theorem witness_UnansweredCommandsWait : ∃ p r t, Pseudo.command hw (.reset 0#8) = some p ∧ idle2.job = none ∧
    ({ idle2 with inbox := answers [0x100#10] } : State).inbox = answers [0x100#10] ++ [] ∧
    (∀ (w : AnswerWord) more, ([] : List Input) ≠ .word (.answer w) :: more) ∧ p idle2 [0x100#10] = .waiting r t :=
  ⟨_, _, _, rfl, rfl, rfl, by simp, rfl⟩

/-- A reference bus with one device, which fits every capacity. -/
def busA : Bus := { devices := [idA], connected := true, umode := .unconf, phase := .idle, part := [] }

theorem witness_DiscoveryFindsEveryDevice : idle2.job = none ∧ idle2.inbox = [] ∧ busA.connected = true ∧ busA.devices ≠ [] ∧
    busA.devices.Nodup ∧ busA.devices.length ≤ Config.capacity ∧ ∃ u, exec (.discover 0#8) idle2 = .next u :=
  ⟨rfl, rfl, rfl, by decide, by decide, Nat.succ_le_of_lt (Nat.succ_pos _), _, rfl⟩

theorem witness_ReferenceBusIsWiredAnd :
    let s := startDiscover .discover State.reset
    Inv s ∧ busA.umode = s.mode ∧ WiredAnd s.trace ∧ ∃ j, s.job = some j ∧ recordsErrors j = true := by
  refine ⟨⟨empty_registryForm hw, by decide, by decide, ?_⟩, rfl, (by intro b c h; cases h), _, rfl, rfl⟩
  intro j hj
  cases hj
  rfl

theorem witness_ByteTransferFrame : isByteTransfer (.readRom 0#8) = true ∧ ∃ t, exec (.readRom 0#8) idle2 = .next t :=
  ⟨rfl, _, rfl⟩

theorem witness_ResetFrame : ∃ t, exec (.reset 0#8) idle2 = .next t := ⟨_, rfl⟩

theorem witness_ReadOnlyFrame : isReadOnly (.device 0#8) = true ∧ ∃ t, exec (.device 0#8) idle2 = .next t := ⟨rfl, _, rfl⟩

/-- CONFIGURE, a slot row and a ROM byte row. -/
theorem witness_InternalRowsFrame : isInternal (.configure .dataMode) = true ∧ isInternal .readBit = true ∧
    isInternal .romSkip = true ∧ (∀ m, Instr.readBit ≠ .configure m) ∧ romRowByte .readBit = none ∧
    ∃ t, exec .readBit idle2 = .next t := ⟨rfl, rfl, rfl, by simp, rfl, _, rfl⟩

/-- DISCOVER clears the registry, and RESET `err_code`. -/
theorem witness_RegistryAndErrorRecordWriters :
    (∃ t, step (offered idle2 0x0300#16 []) = .next t ∧ t.reg ≠ (offered idle2 0x0300#16 []).reg) ∧
    ∃ t, step (offered idle2 0x0200#16 []) = .next t ∧ t.errCode ≠ (offered idle2 0x0200#16 []).errCode :=
  ⟨⟨_, rfl, by decide⟩, _, rfl, by decide⟩

theorem witness_ModeFollowsTheTrace : (∃ t, step (called inDiscover (.answer 0x100#10) []) = .next t) ∧
    ∀ rest, (called inDiscover (.answer 0x100#10) []).inbox ≠ .hardReset :: rest := ⟨⟨_, rfl⟩, by simp [called]⟩

theorem witness_ModeDecidesNothing : ∃ t, exec (.discover 0#8) idle2 = .next t := ⟨_, rfl⟩

/-- The search state of `idle2` is not that of a reset. -/
theorem witness_OldSearchStateIsNeverRead : idle2.job = none ∧ (∃ t, exec (.discover 0#8) idle2 = .next t) ∧
    idle2.ld ≠ State.reset.ld := ⟨rfl, ⟨_, rfl⟩, by decide⟩

/-- A command word, and an answer that ends a command. -/
theorem witness_OneResponsePerWord : (∃ t, step (offered idle2 0x0400#16 []) = .next t) ∧
    (offered idle2 0x0400#16 []).inbox = .word (.host 0x0400#16) :: [] ∧
    (∃ t, step (called inReadByte (.answer 0x0FF#10) []) = .next t) ∧
    (called inReadByte (.answer 0x0FF#10) []).inbox = .word (.answer 0x0FF#10) :: [] := ⟨⟨_, rfl⟩, rfl, ⟨_, rfl⟩, rfl⟩

/-- A byte transfer meets the clauses on the registry, `err_code` and `ret`; the end of a reset pulse the clause on the byte
registers. -/
theorem witness_AnswerFrame : decode (.answer 0x0FF#10) = .ok (.xaCaptured 0xFF#8) ∧
    inReadByte.job = some (.transceiving .readSlot) ∧ (∃ t, exec (.xaCaptured 0xFF#8) inReadByte = .next t) ∧
    enumerates (.transceiving .readSlot) = false ∧ recordsErrors (.transceiving .readSlot) = false ∧
    (Job.transceiving .readSlot).isAlone = false ∧
    (∀ o d, Job.transceiving .readSlot ≠ .transceiving (.search o (.writeBack d))) ∧
    (∀ r, Job.transceiving .readSlot ≠ .configuring (.resetExit .init r)) ∧
    (∀ k, Job.transceiving (.resetPulse .command) ≠ .transceiving (.writeSlot k)) ∧
    Job.transceiving (.resetPulse .command) ≠ .transceiving .readSlot ∧
    (∀ o r, Job.transceiving (.resetPulse .command) ≠ .configuring (.resetExit (.pass o) r)) :=
  ⟨rfl, rfl, ⟨_, rfl⟩, rfl, rfl, rfl, by simp, by simp, by simp, by simp, by simp⟩

/-- An idle engine, and a busy one. -/
theorem witness_EnumerationFrame : runsEnumeration (.init 0#8) = true ∧ (∃ t, exec (.init 0#8) idle2 = .next t) ∧
    (∃ t, exec (.init 0#8) inDiscover = .next t) ∧ inDiscover.busy = true := ⟨rfl, ⟨_, rfl⟩, ⟨_, rfl⟩, rfl⟩

/-- The last byte of the last entry, and the first address behind it. -/
theorem witness_RegistryByteSpace : 1 < [idC, idA].length ∧ 7 < 8 ∧ 8 * [idC, idA].length ≤ 16 := by decide

theorem witness_AppendWritesOneEntry : 15 < 8 * [idC, idA].length ∧ 8 * [idC, idA].length + 8 ≤ 24 := by decide

end Sys2Proof.Tests
end

section
/-! What `exec` can do with an instruction, said once: it rejects the word, offers a host command, calls an internal procedure,
or has an answer taken. -/

namespace Sys2Proof.Machine

/-- The response of a command that only reads the registry or the error record (44_registry.md R166). -/
def respondRead (f : List DeviceId → ErrCode → Response) (s : State) : State :=
  { s with job := none, responses := s.responses ++ [f s.reg s.errCode] }

/-- The response of DEVICE (R162). -/
def entryResponse (index : Nat) (reg : List DeviceId) : Response :=
  match Registry.entry reg index with
  | some id => { status := .ok, data := id, beats := [] }
  | none => { status := .notFound, data := 0#64, beats := [] }

theorem respondEntry_eq (index : Nat) : respondEntry index = respondRead fun reg _ => entryResponse index reg := by
  funext s
  simp only [respondEntry, respondRead, entryResponse]
  cases Registry.entry s.reg index <;> rfl

/-- How a host command begins. -/
inductive HostStart : (State → State) → Prop
  | reset : HostStart (startReset .command)
  | init : HostStart (startReset .init)
  | discover : HostStart (startDiscover .discover)
  | writeByte (c : ByteCommand) (v : Byte) : HostStart (startWriteByte (.command c) v)
  | readByte : HostStart startReadByte
  | read (f : List DeviceId → ErrCode → Response) : HostStart (respondRead f)

/-- How an internal procedure that runs on its own begins (log 4). -/
inductive LoneStart : (State → State) → Prop
  | configure (m : ConfigMode) : LoneStart (await (.configuring (.alone m)))
  | slot (u : LoneSlot) : LoneStart (await (.transceiving (.alone u)))
  | romByte (v : Byte) : LoneStart (startWriteByte .alone v)

/-- What an instruction has the engine do, in every state. -/
inductive Meaning (i : Instr) : Prop
  | reject (h : ∀ s, exec i s = .next (rejectWord s))
  | command (start : State → State) (hstart : HostStart start) (h : ∀ s, exec i s = .next (runCommand hw start s))
  | alone (start : State → State) (hstart : LoneStart start) (h : ∀ s, exec i s = .next (runAlone hw start s))
  | answer (a : Answer) (h : ∀ s, exec i s = .next (takeAnswer hw a s))

theorem exec_meaning (i : Instr) : Meaning i := by
  cases i with
  | init => exact .command _ .init fun _ => rfl
  | reset => exact .command _ .reset fun _ => rfl
  | discover => exact .command _ .discover fun _ => rfl
  | deviceCount =>
    exact .command _ (.read fun reg _ => ⟨.ok, (BitVec.ofNat 9 reg.length).zeroExtend 64, []⟩) fun _ => rfl
  | devices =>
    exact .command _ (.read fun reg _ => ⟨.ok, (BitVec.ofNat 9 reg.length).zeroExtend 64, reg⟩) fun _ => rfl
  | device index => exact .command _ (.read _) fun s => by rw [← respondEntry_eq (indexOf index)]; rfl
  | lastError => exact .command _ (.read fun _ e => ⟨.ok, e.bits.zeroExtend 64, []⟩) fun _ => rfl
  | writeByte => exact .command _ (.writeByte .writeByte _) fun _ => rfl
  | readByte => exact .command _ .readByte fun _ => rfl
  | skipRom => exact .command _ (.writeByte .skipRom _) fun _ => rfl
  | readRom => exact .command _ (.writeByte .readRom _) fun _ => rfl
  | searchRom => exact .command _ (.writeByte .searchRom _) fun _ => rfl
  | matchRom => exact .command _ (.writeByte .matchRom _) fun _ => rfl
  | configure => exact .alone _ (.configure _) fun _ => rfl
  | transceive => exact .alone _ (.slot _) fun _ => rfl
  | resetPulse => exact .alone _ (.slot _) fun _ => rfl
  | writeBit1 => exact .alone _ (.slot _) fun _ => rfl
  | writeBit0 => exact .alone _ (.slot _) fun _ => rfl
  | readBit => exact .alone _ (.slot _) fun _ => rfl
  | romSkip => exact .alone _ (.romByte _) fun _ => rfl
  | romRead => exact .alone _ (.romByte _) fun _ => rfl
  | romMatch => exact .alone _ (.romByte _) fun _ => rfl
  | romSearch => exact .alone _ (.romByte _) fun _ => rfl
  | xaCaptured => exact .answer _ fun _ => rfl
  | xaNothingOrDone => exact .answer _ fun _ => rfl
  | xaFailure => exact .answer _ fun _ => rfl
  | xaReserved => exact .answer _ fun _ => rfl
  | reserved00 | reserved0E | reserved0F | reserved10to1F | reserved20to3F | reserved40to7F | reserved80toFF =>
    exact .reject fun _ => rfl

end Sys2Proof.Machine
end

section
/-! What the sequencer does between two requests: it issues the next request, responds, or ends on its own, and leaves the
transport configuration and the trace alone. -/

namespace Sys2Proof.Machine

/-- From `s` the sequencer went on to `t` without an event on the transport port, in a host command (`lone = false`) or in
a procedure that runs on its own. -/
structure Proceeds (lone : Bool) (s t : State) : Prop where
  mode : t.mode = s.mode
  trace : t.trace = s.trace
  responses : ∃ rs, t.responses = s.responses ++ rs
  ret : lone = false → t.ret = s.ret
  job : ∀ j, t.job = some j → j.isAlone = lone

variable (cfg : Config) (s : State)

/-- Registers written before the sequencer goes on make no difference to what it leaves alone. -/
theorem Proceeds.of_registers {lone : Bool} {s s' t : State} (h : Proceeds lone s' t) (hmode : s'.mode = s.mode)
    (htrace : s'.trace = s.trace) (hresponses : s'.responses = s.responses) (hret : s'.ret = s.ret) :
    Proceeds lone s t where
  mode := h.mode.trans hmode
  trace := h.trace.trans htrace
  responses := hresponses ▸ h.responses
  ret hl := (h.ret hl).trans hret
  job := h.job

theorem await_proceeds {lone : Bool} (j : Job) (hj : j.isAlone = lone) : Proceeds lone s (await j s) where
  mode := rfl
  trace := rfl
  responses := ⟨[], by simp⟩
  ret _ := rfl
  job _ h := by cases h; exact hj

theorem respond_proceeds (lone : Bool) (st : Status) (d : BitVec 64) (b : List DeviceId) :
    Proceeds lone s (respond st d b s) where
  mode := rfl
  trace := rfl
  responses := ⟨_, rfl⟩
  ret _ := rfl
  job _ h := by cases h

theorem finishAlone_proceeds (r : LoneResult) : Proceeds true s (finishAlone r s) where
  mode := rfl
  trace := rfl
  responses := ⟨[], by simp⟩
  ret h := by cases h
  job _ h := by cases h

theorem startReset_proceeds (k : ResetCaller) : Proceeds false s (startReset k s) :=
  (await_proceeds _ (.configuring (.resetEntry k)) rfl).of_registers rfl rfl rfl rfl

theorem startWriteByte_proceeds {lone : Bool} (k : WriteCaller) (v : Byte)
    (hk : (Job.transceiving (.writeSlot k)).isAlone = lone) : Proceeds lone s (startWriteByte k v s) :=
  (await_proceeds _ _ hk).of_registers rfl rfl rfl rfl

theorem startReadByte_proceeds : Proceeds false s (startReadByte s) :=
  (await_proceeds _ (.transceiving .readSlot) rfl).of_registers rfl rfl rfl rfl

theorem startDiscover_proceeds (o : Owner) : Proceeds false s (startDiscover o s) :=
  (startReset_proceeds _ (.pass o)).of_registers rfl rfl rfl rfl

theorem endEnumeration_proceeds (o : Owner) (st : Status) : Proceeds false s (endEnumeration o st s) := by
  cases o <;> exact respond_proceeds ..

theorem nextPass_proceeds (o : Owner) : Proceeds false s (nextPass o s) := by
  unfold nextPass
  split
  · exact endEnumeration_proceeds ..
  · exact (startReset_proceeds _ (.pass o)).of_registers rfl rfl rfl rfl

theorem passComplete_proceeds (o : Owner) : Proceeds false s (passComplete cfg o s) := by
  unfold passComplete
  split
  · exact nextPass_proceeds ..
  · split
    · exact endEnumeration_proceeds ..
    · exact (nextPass_proceeds _ o).of_registers rfl rfl rfl rfl

theorem resetReturn_proceeds (k : ResetCaller) (ok : Bool) : Proceeds false s (resetReturn k ok s) := by
  cases k with
  | command => exact respond_proceeds ..
  | init =>
    cases ok
    · exact respond_proceeds ..
    · exact startDiscover_proceeds ..
  | pass o =>
    cases ok
    · exact endEnumeration_proceeds ..
    · exact startWriteByte_proceeds _ _ _ rfl

theorem resetClassified_proceeds (k : ResetCaller) (c : ResetClass) : Proceeds false s (resetClassified k c s) := by
  unfold resetClassified
  split
  · exact resetReturn_proceeds ..
  · exact (resetReturn_proceeds _ k false).of_registers rfl rfl rfl rfl

theorem writeReturn_proceeds (k : WriteCaller) :
    Proceeds (Job.transceiving (.writeSlot k)).isAlone s (writeReturn k s) := by
  cases k with
  | command => exact respond_proceeds ..
  | pass o => exact (await_proceeds _ (.transceiving (.search o .firstRead)) rfl).of_registers rfl rfl rfl rfl
  | alone => exact finishAlone_proceeds ..

theorem writeSlotDone_proceeds (k : WriteCaller) :
    Proceeds (Job.transceiving (.writeSlot k)).isAlone s (writeSlotDone k s) := by
  unfold writeSlotDone
  dsimp only
  split
  · exact (await_proceeds _ (.transceiving (.writeSlot k)) rfl).of_registers rfl rfl rfl rfl
  · exact (writeReturn_proceeds _ k).of_registers rfl rfl rfl rfl

theorem readSlotDone_proceeds (t : Bool) : Proceeds false s (readSlotDone t s) := by
  unfold readSlotDone
  dsimp only
  split
  · exact (await_proceeds _ (.transceiving .readSlot) rfl).of_registers rfl rfl rfl rfl
  · exact (respond_proceeds ..).of_registers rfl rfl rfl rfl

theorem positionRead_proceeds (o : Owner) (a b : Bool) : Proceeds false s (positionRead o a b s) := by
  unfold positionRead
  split
  · exact (endEnumeration_proceeds _ o .stFalse).of_registers rfl rfl rfl rfl
  · exact (await_proceeds _ (.transceiving (.search o (.writeBack _))) rfl).of_registers rfl rfl rfl rfl

theorem positionDone_proceeds (o : Owner) : Proceeds false s (positionDone cfg o s) := by
  unfold positionDone
  dsimp only
  split
  · exact (await_proceeds _ (.transceiving (.search o .firstRead)) rfl).of_registers rfl rfl rfl rfl
  · exact (passComplete_proceeds _ _ o).of_registers rfl rfl rfl rfl

theorem configured_proceeds (p : ConfigPoint) : Proceeds (Job.configuring p).isAlone s (configured cfg p s) := by
  cases p with
  | resetEntry => exact await_proceeds _ _ rfl
  | resetExit => exact resetClassified_proceeds ..
  | alone => exact finishAlone_proceeds ..

theorem transceived_proceeds (p : TransceivePoint) (r : Capture) :
    Proceeds (Job.transceiving p).isAlone s (transceived cfg p r s) := by
  cases p with
  | resetPulse => exact await_proceeds _ _ rfl
  | writeSlot => exact writeSlotDone_proceeds ..
  | readSlot => exact readSlotDone_proceeds ..
  | search o slot =>
    cases slot with
    | firstRead => exact await_proceeds _ _ rfl
    | secondRead => exact positionRead_proceeds ..
    | writeBack => exact positionDone_proceeds ..
  | alone => exact finishAlone_proceeds ..

/-- A TransportError: the failed request is recorded, and the procedure ends. -/
theorem raiseTransportError_proceeds (j : Job) :
    Proceeds j.isAlone (requestFailed (j.request cfg s.sh) s) (raiseTransportError cfg j s) := by
  unfold raiseTransportError
  dsimp only
  split
  · next h => exact h ▸ finishAlone_proceeds ..
  · exact respond_proceeds ..

theorem HostStart.proceeds {start : State → State} (h : HostStart start) : Proceeds false s (start s) := by
  cases h with
  | reset => exact startReset_proceeds ..
  | init => exact startReset_proceeds ..
  | discover => exact startDiscover_proceeds ..
  | writeByte => exact startWriteByte_proceeds _ _ _ rfl
  | readByte => exact startReadByte_proceeds ..
  | read => exact respond_proceeds ..

theorem LoneStart.proceeds {start : State → State} (h : LoneStart start) : Proceeds true s (start s) := by
  cases h with
  | configure => exact await_proceeds _ _ rfl
  | slot => exact await_proceeds _ _ rfl
  | romByte => exact startWriteByte_proceeds _ _ _ rfl

/-- Taking an answer is one event on the transport port, and then the sequencer goes on. -/
theorem takeAnswer_proceeds (a : Answer) (j : Job) (hj : s.job = some j) :
    ∃ s', Proceeds j.isAlone s' (takeAnswer cfg a s) ∧ s'.responses = s.responses ∧ s'.ret = s.ret ∧
      ∃ e, s'.trace = s.trace ++ [e] ∧ s'.mode = Claims.modeAfter s.mode e := by
  obtain ⟨hnone, -⟩ | ⟨k, hk, -, heq⟩ | ⟨p, hk, -, heq⟩ | ⟨p, r, hk, -, heq⟩ := takeAnswer_cases cfg s a
  · rw [hj] at hnone; cases hnone
  · cases hj.symm.trans hk
    refine ⟨_, heq ▸ raiseTransportError_proceeds cfg s j, by simp, by simp, ?_⟩
    cases j.request cfg s.sh <;> exact ⟨_, rfl, rfl⟩
  · cases hj.symm.trans hk
    refine ⟨configureDone p.operand s, heq ▸ configured_proceeds cfg _ p, rfl, rfl, .cfg p.operand, rfl, ?_⟩
    cases p.operand <;> rfl
  · cases hj.symm.trans hk
    exact ⟨recordEvent (.xfer (p.byteSent cfg s.sh) r) s, heq ▸ transceived_proceeds cfg _ p r, rfl, rfl, _, rfl, rfl⟩

end Sys2Proof.Machine
end

section
/-! The trace, the responses and `mode` over any number of answers, and over every instruction. -/

namespace Sys2Proof.Machine

open Sys2Proof.Claims

/-- Both histories grow at their ends, and `mode` follows from the events that were added (10_state.md R36). -/
def FollowsTrace (s t : State) : Prop :=
  ∃ es rs, t.trace = s.trace ++ es ∧ t.responses = s.responses ++ rs ∧ t.mode = es.foldl modeAfter s.mode

variable (cfg : Config) {s t u : State}

theorem FollowsTrace.refl (s : State) : FollowsTrace s s := ⟨[], [], by simp⟩

theorem FollowsTrace.trans (h₁ : FollowsTrace s t) (h₂ : FollowsTrace t u) : FollowsTrace s u := by
  obtain ⟨es₁, rs₁, htrace₁, hresp₁, hmode₁⟩ := h₁
  obtain ⟨es₂, rs₂, htrace₂, hresp₂, hmode₂⟩ := h₂
  exact ⟨es₁ ++ es₂, rs₁ ++ rs₂, by simp [*], by simp [*], by simp [*]⟩

theorem Proceeds.followsTrace {lone : Bool} (h : Proceeds lone s t) : FollowsTrace s t := by
  obtain ⟨rs, hrs⟩ := h.responses
  exact ⟨[], rs, by simp [h.trace], hrs, h.mode⟩

theorem takeAnswer_followsTrace (a : Answer) (s : State) : FollowsTrace s (takeAnswer cfg a s) := by
  cases hj : s.job with
  | none => rw [takeAnswer_idle cfg s a hj]; exact .refl s
  | some j =>
    obtain ⟨s', hproceeds, hresp, -, e, htrace, hmode⟩ := takeAnswer_proceeds cfg s a j hj
    exact .trans ⟨[e], [], htrace, by simpa using hresp, hmode⟩ hproceeds.followsTrace

theorem drain_followsTrace (s : State) : FollowsTrace s (drain cfg s) :=
  drainQueue_induct cfg (P := FollowsTrace s) (fun _ a _ h => h.trans (takeAnswer_followsTrace cfg a _))
    (fun _ _ h => h) s.inbox s (.refl s)

theorem rejectWord_followsTrace (s : State) : FollowsTrace s (rejectWord s) := ⟨[], _, by simp, rfl, rfl⟩

theorem runCommand_followsTrace {start : State → State} (hstart : HostStart start) (s : State) :
    FollowsTrace s (runCommand cfg start s) := by
  unfold runCommand
  split
  · exact rejectWord_followsTrace s
  · exact (hstart.proceeds s).followsTrace.trans (drain_followsTrace cfg _)

theorem runAlone_followsTrace {start : State → State} (hstart : LoneStart start) (s : State) :
    FollowsTrace s (runAlone cfg start s) := by
  unfold runAlone
  split
  · exact .refl s
  · exact (hstart.proceeds s).followsTrace.trans (drain_followsTrace cfg _)

theorem exec_followsTrace {i : Instr} (h : exec i s = .next t) : FollowsTrace s t := by
  cases exec_meaning i with
  | reject hi => cases (hi s).symm.trans h; exact rejectWord_followsTrace s
  | command start hstart hi => cases (hi s).symm.trans h; exact runCommand_followsTrace hw hstart s
  | alone start hstart hi => cases (hi s).symm.trans h; exact runAlone_followsTrace hw hstart s
  | answer a hi => cases (hi s).symm.trans h; exact takeAnswer_followsTrace hw a s

/-- Everything a step can be: nothing to take, the hardware reset, an instruction. -/
theorem step_cases (h : step s = .next t) :
    (s.inbox = [] ∧ t = s) ∨
    (∃ rest, s.inbox = .hardReset :: rest ∧ t = hardReset { s with inbox := rest }) ∨
    (∃ p rest i, s.inbox = .word p :: rest ∧ decode p = .ok i ∧ exec i { s with inbox := rest } = .next t) := by
  unfold step fetch at h
  match hq : s.inbox with
  | [] => simp only [hq] at h; cases h; exact .inl ⟨rfl, rfl⟩
  | .hardReset :: rest => simp only [hq] at h; cases h; exact .inr (.inl ⟨rest, rfl, rfl⟩)
  | .word p :: rest =>
    simp only [hq] at h
    match hd : decode p with
    | .ok i => exact .inr (.inr ⟨p, rest, i, rfl, hd, by simpa only [hd] using h⟩)
    | .error e => simp only [hd] at h; cases e <;> cases h

end Sys2Proof.Machine
end

section
/-! A host command and the field `ret`, which is the model's own (log 4). -/

namespace Sys2Proof.Machine

open Sys2Proof.Claims

variable (cfg : Config)

/-- The engine runs no procedure on its own, and `ret` is `r`. -/
def HoldsRet (r : Option LoneResult) (s : State) : Prop := s.ret = r ∧ ∀ j, s.job = some j → j.isAlone = false

theorem Proceeds.holdsRet {s t : State} (h : Proceeds false s t) : HoldsRet s.ret t := ⟨h.ret rfl, h.job⟩

theorem HoldsRet.takeAnswer {r : Option LoneResult} {s : State} (h : HoldsRet r s) (a : Answer) :
    HoldsRet r (takeAnswer cfg a s) := by
  obtain ⟨rfl, hjob⟩ := h
  cases hj : s.job with
  | none => rw [takeAnswer_idle cfg s a hj]; exact ⟨rfl, by simp [hj]⟩
  | some j =>
    obtain ⟨s', hproceeds, -, hret, -⟩ := takeAnswer_proceeds cfg s a j hj
    rw [hjob j hj] at hproceeds
    exact hret ▸ hproceeds.holdsRet

theorem runCommand_ret {start : State → State} (hstart : HostStart start) (s : State) :
    (runCommand cfg start s).ret = s.ret := by
  unfold runCommand
  split
  · rfl
  · exact (drainQueue_induct cfg (P := HoldsRet s.ret) (fun _ a _ h => h.takeAnswer cfg a) (fun _ _ h => h) _ _
      (hstart.proceeds s).holdsRet).1

/-- A host command that takes answers takes them from the head of the inbox. -/
theorem runCommand_taken (start : State → State) (s : State) (hstart : (start s).inbox = s.inbox) :
    ∃ taken, s.inbox = answers taken ++ (runCommand cfg start s).inbox := by
  unfold runCommand
  split
  · exact ⟨[], rfl⟩
  · exact hstart ▸ drainQueue_taken cfg (start s).inbox (start s)

/-- The two enumerating commands as host commands. -/
theorem runsEnumeration_command {i : Instr} (h : runsEnumeration i = true) :
    ∃ start, HostStart start ∧ (∀ s, (start s).inbox = s.inbox) ∧ ∀ s, exec i s = .next (runCommand hw start s) := by
  cases i with
  | init => exact ⟨_, .init, fun _ => rfl, fun _ => rfl⟩
  | discover => exact ⟨_, .discover, fun _ => rfl, fun _ => rfl⟩
  | _ => cases h

end Sys2Proof.Machine
end

section
/-! Two runs side by side: a relation of states that every operation keeps is kept by every instruction. -/

namespace Sys2Proof.Machine

/-- `R` relates states that the engine cannot tell apart by what it does next. -/
structure Simulation (R : State → State → Prop) : Prop where
  job : ∀ {s u}, R s u → u.job = s.job
  inbox : ∀ {s u}, R s u → u.inbox = s.inbox
  withInbox : ∀ {s u} (q : List Input), R s u → R { s with inbox := q } { u with inbox := q }
  reject : ∀ {s u}, R s u → R (rejectWord s) (rejectWord u)
  answer : ∀ {s u} (a : Answer), R s u → R (takeAnswer hw a s) (takeAnswer hw a u)
  host : ∀ {s u start}, HostStart start → s.job = none → R s u → R (start s) (start u)
  lone : ∀ {s u start}, LoneStart start → s.job = none → R s u → R (start s) (start u)

namespace Simulation

variable {R : State → State → Prop} (hR : Simulation R) {s u : State}
include hR

theorem busy (h : R s u) : u.busy = s.busy := by rw [State.busy, hR.job h, State.busy]

theorem drainQueue (q : List Input) : ∀ {s u}, R s u → R (drainQueue hw q s) (drainQueue hw q u) := by
  induction q with
  | nil => intro s u h; exact hR.withInbox [] h
  | cons x q ih =>
    intro s u h
    by_cases hb : s.busy = true
    · match x with
      | .word (.answer w) =>
        rw [drainQueue_answer hw s w q hb, drainQueue_answer hw u w q (hR.busy h ▸ hb)]
        exact ih (hR.answer _ h)
      | .hardReset => exact hR.withInbox _ h
      | .word (.host _) => exact hR.withInbox _ h
      | .word (.call _ _) => exact hR.withInbox _ h
      | .word (.romByte _) => exact hR.withInbox _ h
    · have hb : s.busy = false := by simpa using hb
      rw [drainQueue_idle hw s _ hb, drainQueue_idle hw u _ (hR.busy h ▸ hb)]
      exact hR.withInbox _ h

theorem drain (h : R s u) : R (drain hw s) (drain hw u) := by
  rw [Machine.drain, Machine.drain, hR.inbox h]
  exact hR.drainQueue _ h

theorem runCommand {start : State → State} (hstart : HostStart start) (h : R s u) :
    R (runCommand hw start s) (runCommand hw start u) := by
  rw [Machine.runCommand, Machine.runCommand, hR.busy h]
  split
  · exact hR.reject h
  · next hb => exact hR.drain (hR.host hstart (by simpa [State.busy] using hb) h)

theorem runAlone {start : State → State} (hstart : LoneStart start) (h : R s u) :
    R (runAlone hw start s) (runAlone hw start u) := by
  rw [Machine.runAlone, Machine.runAlone, hR.busy h]
  split
  · exact h
  · next hb => exact hR.drain (hR.lone hstart (by simpa [State.busy] using hb) h)

/-- Related states stay related over every instruction. -/
theorem exec {i : Instr} {t : State} (h : R s u) (ht : exec i s = .next t) : ∃ t', exec i u = .next t' ∧ R t t' := by
  cases exec_meaning i with
  | reject hi => cases (hi s).symm.trans ht; exact ⟨_, hi u, hR.reject h⟩
  | command start hstart hi => cases (hi s).symm.trans ht; exact ⟨_, hi u, hR.runCommand hstart h⟩
  | alone start hstart hi => cases (hi s).symm.trans ht; exact ⟨_, hi u, hR.runAlone hstart h⟩
  | answer a hi => cases (hi s).symm.trans ht; exact ⟨_, hi u, hR.answer a h⟩

end Simulation

end Sys2Proof.Machine
end

section
/-! The sequencer does not look at `mode`: what it does from a state with another `mode` is what it does from that state, with
the other `mode`. -/

namespace Sys2Proof.Machine

variable (cfg : Config) (s : State) (m : Mode)

theorem endEnumeration_withMode (o : Owner) (st : Status) :
    endEnumeration o st { s with mode := m } = { endEnumeration o st s with mode := m } := by cases o <;> rfl

theorem nextPass_withMode (o : Owner) :
    nextPass o { s with mode := m } = { nextPass o s with mode := m } := by
  unfold nextPass
  dsimp only
  split
  · exact endEnumeration_withMode ..
  · rfl

theorem passComplete_withMode (o : Owner) :
    passComplete cfg o { s with mode := m } = { passComplete cfg o s with mode := m } := by
  unfold passComplete
  dsimp only
  split
  · exact nextPass_withMode ..
  · split
    · exact endEnumeration_withMode ..
    · exact nextPass_withMode { s with reg := Registry.append s.reg s.curId } m o

theorem resetReturn_withMode (k : ResetCaller) (ok : Bool) :
    resetReturn k ok { s with mode := m } = { resetReturn k ok s with mode := m } := by
  cases k with
  | command => rfl
  | init => cases ok <;> rfl
  | pass o =>
    cases ok
    · exact endEnumeration_withMode ..
    · rfl

theorem resetClassified_withMode (k : ResetCaller) (c : ResetClass) :
    resetClassified k c { s with mode := m } = { resetClassified k c s with mode := m } := by
  unfold resetClassified
  split
  · exact resetReturn_withMode ..
  · next e _ => exact resetReturn_withMode { s with errCode := e } m k false

theorem writeReturn_withMode (k : WriteCaller) :
    writeReturn k { s with mode := m } = { writeReturn k s with mode := m } := by cases k <;> rfl

theorem writeSlotDone_withMode (k : WriteCaller) :
    writeSlotDone k { s with mode := m } = { writeSlotDone k s with mode := m } := by
  unfold writeSlotDone
  dsimp only
  split
  · rfl
  · exact writeReturn_withMode { s with sh := shiftOut s.sh, bitcnt := s.bitcnt + 1#4 } m k

theorem readSlotDone_withMode (t : Bool) :
    readSlotDone t { s with mode := m } = { readSlotDone t s with mode := m } := by
  unfold readSlotDone
  dsimp only
  split <;> rfl

theorem positionRead_withMode (o : Owner) (a b : Bool) :
    positionRead o a b { s with mode := m } = { positionRead o a b s with mode := m } := by
  unfold positionRead
  split
  · exact endEnumeration_withMode { s with errCode := .noDevices } m o .stFalse
  · rfl

theorem positionDone_withMode (o : Owner) :
    positionDone cfg o { s with mode := m } = { positionDone cfg o s with mode := m } := by
  unfold positionDone
  dsimp only
  split
  · rfl
  · exact passComplete_withMode cfg { s with pos := s.pos + 1#7 } m o

theorem configured_withMode (p : ConfigPoint) :
    configured cfg p { s with mode := m } = { configured cfg p s with mode := m } := by
  cases p with
  | resetEntry => rfl
  | resetExit => exact resetClassified_withMode ..
  | alone => rfl

theorem transceived_withMode (p : TransceivePoint) (r : Capture) :
    transceived cfg p r { s with mode := m } = { transceived cfg p r s with mode := m } := by
  cases p with
  | resetPulse => rfl
  | writeSlot => exact writeSlotDone_withMode ..
  | readSlot => exact readSlotDone_withMode ..
  | search o slot =>
    cases slot with
    | firstRead => rfl
    | secondRead => exact positionRead_withMode ..
    | writeBack => exact positionDone_withMode ..
  | alone => rfl

/-- `u` is `s` but for `mode`. -/
def UpToMode (s u : State) : Prop := ∃ m, u = { s with mode := m }

theorem raiseTransportError_upToMode (j : Job) :
    UpToMode (raiseTransportError cfg j s) (raiseTransportError cfg j { s with mode := m }) := by
  unfold raiseTransportError
  dsimp only
  cases j.request cfg s.sh with
  | configure => split <;> exact ⟨.unconf, rfl⟩
  | transceive => split <;> exact ⟨m, rfl⟩

theorem configureAnswer_upToMode (p : ConfigPoint) (a : Answer) :
    UpToMode (configureAnswer cfg p a s) (configureAnswer cfg p a { s with mode := m }) := by
  cases a with
  | failure => exact raiseTransportError_upToMode ..
  | captured => exact ⟨_, rfl⟩
  | nothingOrDone => exact ⟨_, rfl⟩

theorem transceiveAnswer_upToMode (p : TransceivePoint) (a : Answer) :
    UpToMode (transceiveAnswer cfg p a s) (transceiveAnswer cfg p a { s with mode := m }) := by
  cases a with
  | failure => exact raiseTransportError_upToMode ..
  | captured c =>
    exact ⟨m, transceived_withMode cfg (recordEvent (.xfer (p.byteSent cfg s.sh) (.captured c)) s) m p (.captured c)⟩
  | nothingOrDone =>
    exact ⟨m, transceived_withMode cfg (recordEvent (.xfer (p.byteSent cfg s.sh) .nothing) s) m p .nothing⟩

theorem takeAnswer_upToMode (a : Answer) :
    UpToMode (takeAnswer cfg a s) (takeAnswer cfg a { s with mode := m }) := by
  unfold takeAnswer
  dsimp only
  split
  · exact ⟨m, rfl⟩
  · exact configureAnswer_upToMode ..
  · exact transceiveAnswer_upToMode ..

theorem upToMode_simulation : Simulation UpToMode where
  job := by rintro s _ ⟨m, rfl⟩; rfl
  inbox := by rintro s _ ⟨m, rfl⟩; rfl
  withInbox := by rintro s _ q ⟨m, rfl⟩; exact ⟨m, rfl⟩
  reject := by rintro s _ ⟨m, rfl⟩; exact ⟨m, rfl⟩
  answer := by rintro s _ a ⟨m, rfl⟩; exact takeAnswer_upToMode ..
  host := by rintro s _ _ hstart - ⟨m, rfl⟩; cases hstart <;> exact ⟨m, rfl⟩
  lone := by rintro s _ _ hstart - ⟨m, rfl⟩; cases hstart <;> exact ⟨m, rfl⟩

end Sys2Proof.Machine
end

section
/-! The search state is read in an enumeration alone (10_state.md R25): `ld` and `cur_id` from its clear on, `lz` and `pos` from
the first wire position of a pass on. -/

namespace Sys2Proof.Machine

/-- How much of the search state is still to be read. -/
inductive SearchUse where
  /-- Nothing: `ld` and `cur_id` are cleared before an enumeration reads them. -/
  | nothing
  /-- `ld` and `cur_id`; `lz` and `pos` are written before the first wire position. -/
  | path
  /-- All of it. -/
  | everything

/-- What is read after the RESET of a caller: a search pass goes on with `ld` and `cur_id`. -/
def ResetCaller.searchUse : ResetCaller → SearchUse
  | .pass _ => .path
  | _ => .nothing

/-- What is read after the byte of a caller: a search pass goes on with `ld` and `cur_id`. -/
def WriteCaller.searchUse : WriteCaller → SearchUse
  | .pass _ => .path
  | _ => .nothing

/-- What a sequencing position may still read of the search state that it did not write. -/
def Job.searchUse : Job → SearchUse
  | .configuring (.resetEntry k) => k.searchUse
  | .configuring (.resetExit k _) => k.searchUse
  | .transceiving (.resetPulse k) => k.searchUse
  | .transceiving (.writeSlot k) => k.searchUse
  | .transceiving (.search _ _) => .everything
  | _ => .nothing

/-- `s` with another search state. -/
def State.withSearch (ld lz : Option WirePos) (id : DeviceId) (pos : BitVec 7) (s : State) : State :=
  { s with ld := ld, lz := lz, curId := id, pos := pos }

/-- `u` is `s` but for the part of the search state that is not to be read. -/
def AgreeOn : SearchUse → State → State → Prop
  | .nothing, s, u => ∃ ld lz id pos, u = s.withSearch ld lz id pos
  | .path, s, u => ∃ lz pos, u = s.withSearch s.ld lz s.curId pos
  | .everything, s, u => u = s

/-- `u` is `s` but for what the procedure in progress does not read of the search state. -/
def AgreeWhereRead (s u : State) : Prop := AgreeOn (s.job.elim .nothing Job.searchUse) s u

/-- `f` neither reads nor writes the search state. -/
def SearchBlind (f : State → State) : Prop :=
  ∀ ld lz id pos s, f (s.withSearch ld lz id pos) = (f s).withSearch ld lz id pos

variable (cfg : Config) {s u : State}

/-! ### Agreement -/

theorem AgreeOn.nothing_of {n : SearchUse} (h : AgreeOn n s u) : AgreeOn .nothing s u := by
  cases n with
  | nothing => exact h
  | path => obtain ⟨lz, pos, rfl⟩ := h; exact ⟨_, _, _, _, rfl⟩
  | everything => exact ⟨s.ld, s.lz, s.curId, s.pos, h⟩

theorem AgreeOn.refl (n : SearchUse) (s : State) : AgreeOn n s s := by
  cases n with
  | nothing => exact ⟨s.ld, s.lz, s.curId, s.pos, rfl⟩
  | path => exact ⟨s.lz, s.pos, rfl⟩
  | everything => rfl

theorem AgreeWhereRead.of_job {o : Option Job} (ho : s.job = o) (h : AgreeWhereRead s u) :
    AgreeOn (o.elim .nothing Job.searchUse) s u := ho ▸ h

theorem AgreeWhereRead.job_eq (h : AgreeWhereRead s u) : u.job = s.job := by
  obtain ⟨_, _, _, _, rfl⟩ := h.nothing_of; rfl

theorem AgreeOn.map {n : SearchUse} {f : State → State} (hf : SearchBlind f) (h : AgreeOn n s u) :
    AgreeOn n (f s) (f u) := by
  cases n with
  | nothing => obtain ⟨ld, lz, id, pos, rfl⟩ := h; exact ⟨ld, lz, id, pos, hf ..⟩
  | path =>
    obtain ⟨lz, pos, rfl⟩ := h
    have hown : f s = (f s).withSearch s.ld s.lz s.curId s.pos := hf s.ld s.lz s.curId s.pos s
    have hld : (f s).ld = s.ld := by rw [hown]; rfl
    have hid : (f s).curId = s.curId := by rw [hown]; rfl
    exact ⟨lz, pos, by rw [hf, hld, hid]⟩
  | everything => exact congrArg f h

/-- A procedure that ends without a look at the search state. -/
theorem AgreeOn.ends {n : SearchUse} {f : State → State} (h : AgreeOn n s u) (hf : SearchBlind f)
    (hjob : (f s).job = none) : AgreeWhereRead (f s) (f u) := by
  rw [AgreeWhereRead, hjob]
  exact (h.map hf).nothing_of

/-- A procedure that goes on to a request without a look at the search state. -/
theorem AgreeOn.awaits {j : Job} {f : State → State} (h : AgreeOn j.searchUse s u) (hf : SearchBlind f)
    (hjob : (f s).job = some j) : AgreeWhereRead (f s) (f u) := by
  rw [AgreeWhereRead, hjob]
  exact h.map hf

/-! ### The procedures -/

theorem endEnumeration_searchBlind (o : Owner) (st : Status) : SearchBlind (endEnumeration o st) := by
  cases o <;> exact fun _ _ _ _ _ => rfl

theorem endEnumeration_job (o : Owner) (st : Status) (s : State) : (endEnumeration o st s).job = none := by
  cases o <;> rfl

/-- The clear at the entry of an enumeration leaves nothing of `ld` and `cur_id` to agree on. -/
theorem startDiscover_agree (o : Owner) (h : AgreeOn .nothing s u) :
    AgreeWhereRead (startDiscover o s) (startDiscover o u) := by
  obtain ⟨ld, lz, id, pos, rfl⟩ := h
  exact ⟨lz, pos, rfl⟩

theorem resetReturn_agree (k : ResetCaller) (ok : Bool) (h : AgreeOn k.searchUse s u) :
    AgreeWhereRead (resetReturn k ok s) (resetReturn k ok u) := by
  cases k with
  | command => exact h.ends (fun _ _ _ _ _ => rfl) rfl
  | init =>
    cases ok
    · exact h.ends (fun _ _ _ _ _ => rfl) rfl
    · exact startDiscover_agree .init h
  | pass o =>
    cases ok
    · exact h.ends (f := endEnumeration o .stFalse) (endEnumeration_searchBlind o _) (endEnumeration_job ..)
    · exact AgreeOn.awaits (j := .transceiving (.writeSlot (.pass o))) h (fun _ _ _ _ _ => rfl) rfl

theorem resetClassified_agree (k : ResetCaller) (c : ResetClass) (h : AgreeOn k.searchUse s u) :
    AgreeWhereRead (resetClassified k c s) (resetClassified k c u) := by
  unfold resetClassified
  split
  · exact resetReturn_agree k true h
  · next e _ => exact resetReturn_agree k false (h.map (f := fun s => { s with errCode := e }) fun _ _ _ _ _ => rfl)

/-- The first wire position writes `lz` and `pos`, so that nothing is left to agree on. -/
theorem writeReturn_agree (k : WriteCaller) (h : AgreeOn k.searchUse s u) :
    AgreeWhereRead (writeReturn k s) (writeReturn k u) := by
  cases k with
  | command => exact h.ends (fun _ _ _ _ _ => rfl) rfl
  | pass o => obtain ⟨lz, pos, rfl⟩ := h; rfl
  | alone => exact h.ends (fun _ _ _ _ _ => rfl) rfl

theorem AgreeOn.bitcnt_eq {n : SearchUse} (h : AgreeOn n s u) : u.bitcnt = s.bitcnt := by
  obtain ⟨_, _, _, _, rfl⟩ := h.nothing_of; rfl

theorem writeSlotDone_agree (k : WriteCaller) (h : AgreeOn k.searchUse s u) :
    AgreeWhereRead (writeSlotDone k s) (writeSlotDone k u) := by
  have hshift := h.map (f := fun s => { s with sh := shiftOut s.sh, bitcnt := s.bitcnt + 1#4 }) fun _ _ _ _ _ => rfl
  by_cases hmore : (s.bitcnt + 1#4).toNat < 8
  · rw [writeSlotDone_more s k hmore, writeSlotDone_more u k (h.bitcnt_eq ▸ hmore)]
    exact AgreeOn.awaits (j := .transceiving (.writeSlot k)) hshift (fun _ _ _ _ _ => rfl) rfl
  · rw [writeSlotDone_last s k hmore, writeSlotDone_last u k (h.bitcnt_eq ▸ hmore)]
    exact writeReturn_agree k hshift

theorem readSlotDone_agree (t : Bool) (h : AgreeOn .nothing s u) :
    AgreeWhereRead (readSlotDone t s) (readSlotDone t u) := by
  have hshift := h.map (f := fun s => { s with sh := shiftIn t s.sh, bitcnt := s.bitcnt + 1#4 }) fun _ _ _ _ _ => rfl
  by_cases hmore : (s.bitcnt + 1#4).toNat < 8
  · rw [readSlotDone_more s t hmore, readSlotDone_more u t (h.bitcnt_eq ▸ hmore)]
    exact AgreeOn.awaits (j := .transceiving .readSlot) hshift (fun _ _ _ _ _ => rfl) rfl
  · rw [readSlotDone_last s t hmore, readSlotDone_last u t (h.bitcnt_eq ▸ hmore)]
    exact hshift.ends (f := fun s => respond .ok (s.sh.zeroExtend 64) [] s) (fun _ _ _ _ _ => rfl) rfl

theorem configured_agree (p : ConfigPoint) (h : AgreeOn (Job.configuring p).searchUse s u) :
    AgreeWhereRead (configured cfg p s) (configured cfg p u) := by
  cases p with
  | resetEntry k => exact AgreeOn.awaits (j := .transceiving (.resetPulse k)) h (fun _ _ _ _ _ => rfl) rfl
  | resetExit k r => exact resetClassified_agree k _ h
  | alone => exact h.ends (fun _ _ _ _ _ => rfl) rfl

theorem transceived_agree (p : TransceivePoint) (r : Capture) (h : AgreeOn (Job.transceiving p).searchUse s u) :
    AgreeWhereRead (transceived cfg p r s) (transceived cfg p r u) := by
  cases p with
  | resetPulse k => exact AgreeOn.awaits (j := .configuring (.resetExit k r)) h (fun _ _ _ _ _ => rfl) rfl
  | writeSlot k => exact writeSlotDone_agree k h
  | readSlot => exact readSlotDone_agree _ h
  | search => obtain rfl : u = s := h; exact .refl ..
  | alone => exact h.ends (fun _ _ _ _ _ => rfl) rfl

/-! ### Answers and instructions -/

theorem raiseTransportError_searchBlind (j : Job) : SearchBlind (raiseTransportError cfg j) := by
  intro ld lz id pos s
  unfold raiseTransportError
  dsimp only [State.withSearch]
  cases j.request cfg s.sh <;> split <;> rfl

theorem raiseTransportError_job (j : Job) (s : State) : (raiseTransportError cfg j s).job = none := by
  unfold raiseTransportError
  dsimp only
  split <;> rfl

theorem raiseTransportError_agree (j : Job) (h : AgreeOn j.searchUse s u) :
    AgreeWhereRead (raiseTransportError cfg j s) (raiseTransportError cfg j u) :=
  h.ends (raiseTransportError_searchBlind cfg j) (raiseTransportError_job cfg j s)

theorem configureAnswer_agree (p : ConfigPoint) (a : Answer) (h : AgreeOn (Job.configuring p).searchUse s u) :
    AgreeWhereRead (configureAnswer cfg p a s) (configureAnswer cfg p a u) := by
  have hdone := h.map (f := configureDone p.operand) fun _ _ _ _ _ => rfl
  cases a with
  | failure => exact raiseTransportError_agree cfg _ h
  | captured => exact configured_agree cfg p hdone
  | nothingOrDone => exact configured_agree cfg p hdone

theorem transceiveAnswer_agree (p : TransceivePoint) (a : Answer) (h : AgreeOn (Job.transceiving p).searchUse s u) :
    AgreeWhereRead (transceiveAnswer cfg p a s) (transceiveAnswer cfg p a u) := by
  have hevent (r : Capture) := h.map (f := fun s => recordEvent (.xfer (p.byteSent cfg s.sh) r) s) fun _ _ _ _ _ => rfl
  cases a with
  | failure => exact raiseTransportError_agree cfg _ h
  | captured => exact transceived_agree cfg p _ (hevent _)
  | nothingOrDone => exact transceived_agree cfg p _ (hevent _)

theorem takeAnswer_agree (a : Answer) (h : AgreeWhereRead s u) :
    AgreeWhereRead (takeAnswer cfg a s) (takeAnswer cfg a u) := by
  cases hj : s.job with
  | none => rwa [takeAnswer_idle cfg s a hj, takeAnswer_idle cfg u a (h.job_eq.trans hj)]
  | some j =>
    cases j with
    | configuring p =>
      rw [takeAnswer_configuring cfg s a p hj, takeAnswer_configuring cfg u a p (h.job_eq.trans hj)]
      exact configureAnswer_agree cfg p a (h.of_job hj)
    | transceiving p =>
      rw [takeAnswer_transceiving cfg s a p hj, takeAnswer_transceiving cfg u a p (h.job_eq.trans hj)]
      exact transceiveAnswer_agree cfg p a (h.of_job hj)

theorem HostStart.agree {start : State → State} (hstart : HostStart start) (h : AgreeOn .nothing s u) :
    AgreeWhereRead (start s) (start u) := by
  cases hstart with
  | reset => exact AgreeOn.awaits (j := .configuring (.resetEntry .command)) h (fun _ _ _ _ _ => rfl) rfl
  | init => exact AgreeOn.awaits (j := .configuring (.resetEntry .init)) h (fun _ _ _ _ _ => rfl) rfl
  | discover => exact startDiscover_agree .discover h
  | writeByte c => exact AgreeOn.awaits (j := .transceiving (.writeSlot (.command c))) h (fun _ _ _ _ _ => rfl) rfl
  | readByte => exact AgreeOn.awaits (j := .transceiving .readSlot) h (fun _ _ _ _ _ => rfl) rfl
  | read => exact h.ends (fun _ _ _ _ _ => rfl) rfl

theorem LoneStart.agree {start : State → State} (hstart : LoneStart start) (h : AgreeOn .nothing s u) :
    AgreeWhereRead (start s) (start u) := by
  cases hstart with
  | configure m => exact AgreeOn.awaits (j := .configuring (.alone m)) h (fun _ _ _ _ _ => rfl) rfl
  | slot v => exact AgreeOn.awaits (j := .transceiving (.alone v)) h (fun _ _ _ _ _ => rfl) rfl
  | romByte => exact AgreeOn.awaits (j := .transceiving (.writeSlot .alone)) h (fun _ _ _ _ _ => rfl) rfl

theorem agreeWhereRead_simulation : Simulation AgreeWhereRead where
  job := AgreeWhereRead.job_eq
  inbox h := by obtain ⟨_, _, _, _, rfl⟩ := h.nothing_of; rfl
  withInbox q h := h.map (f := fun s => { s with inbox := q }) fun _ _ _ _ _ => rfl
  reject h := h.map (f := rejectWord) fun _ _ _ _ _ => rfl
  answer a h := takeAnswer_agree hw a h
  host hstart hjob h := hstart.agree (h.of_job hjob)
  lone hstart hjob h := hstart.agree (h.of_job hjob)

end Sys2Proof.Machine
end

section
/-! The statements of 10_state.md. -/

namespace Sys2Proof.Claims

open Sys2Proof.Machine

/-- Settles O50, from what every instruction does to the two histories and to `mode`. -/
theorem modeFollowsTheTrace : Obligations.ModeFollowsTheTrace := by
  unfold Obligations.ModeFollowsTheTrace
  intro s t h
  obtain ⟨-, rfl⟩ | ⟨rest, hq, rfl⟩ | ⟨p, rest, i, -, -, hexec⟩ := step_cases h
  · exact ⟨[], [], by simp⟩
  · exact ⟨[], [], by simp [hardReset], by simp [hardReset], fun hno => absurd hq (hno rest)⟩
  · obtain ⟨es, rs, htrace, hresp, hmode⟩ := exec_followsTrace hexec
    exact ⟨es, rs, htrace, hresp, fun _ => hmode⟩

/-- Settles O51: states that differ in `mode` alone are related by a simulation. -/
theorem modeDecidesNothing : Obligations.ModeDecidesNothing := by
  unfold Obligations.ModeDecidesNothing
  intro i s t m h
  obtain ⟨_, hexec, m', rfl⟩ := upToMode_simulation.exec ⟨m, rfl⟩ h
  exact ⟨m', hexec⟩

/-- Settles O52: an idle engine reads nothing of the search state, so that the states agree where they are read. -/
theorem oldSearchStateIsNeverRead : Obligations.OldSearchStateIsNeverRead := by
  unfold Obligations.OldSearchStateIsNeverRead
  intro i s t ld lz id pos hjob h
  have hagree : AgreeWhereRead s (s.withSearch ld lz id pos) := by
    rw [AgreeWhereRead, hjob]
    exact ⟨ld, lz, id, pos, rfl⟩
  obtain ⟨u, hexec, htu⟩ := agreeWhereRead_simulation.exec hagree h
  obtain ⟨ld', lz', id', pos', rfl⟩ := htu.nothing_of
  exact ⟨_, hexec, rfl, rfl, rfl, rfl, rfl, rfl, rfl, rfl, rfl, rfl⟩

/-- Settles O55, from what every host command leaves alone. -/
theorem enumerationFrame : Obligations.EnumerationFrame := by
  unfold Obligations.EnumerationFrame
  intro i s t hi h
  obtain ⟨start, hstart, hinbox, hexec⟩ := runsEnumeration_command hi
  cases (hexec s).symm.trans h
  exact ⟨runCommand_ret hw hstart s, runCommand_taken hw start s (hinbox s), runCommand_busy hw s start⟩

end Sys2Proof.Claims
end

section
/-! The sequencer is the spec's pseudocode, cut at its requests: the two run side by side, on one supply of answers. -/

namespace Sys2Proof.Machine

open Sys2Proof.Claims

/-! ### The pseudocode's own steps -/

section Pseudocode

variable {α β : Type} (cfg : Config) (s : State) (ws : List AnswerWord)

@[simp] theorem Pseudo.write_andThen_apply (f : State → State) (g : Unit → Proc β) :
    Pseudo.andThen (Pseudo.write f) g s ws = g () (f s) ws := rfl

@[simp] theorem Pseudo.read_apply (f : State → α) (g : α → Proc β) : Pseudo.read f g s ws = g (f s) s ws := rfl

/-- A write slot is a `Transceive` whose capture is not looked at (R110). -/
theorem Pseudo.writeBit_andThen (v : Bool) (f : Unit → Proc β) :
    Pseudo.andThen (Pseudo.writeBit cfg v) f = Pseudo.andThen (Pseudo.transceive (cfg.writePattern v)) fun _ => f () := by
  funext s ws
  simp only [Pseudo.writeBit, Pseudo.andThen]
  cases Pseudo.transceive (cfg.writePattern v) s ws <;> rfl

/-- A read slot is a `Transceive` and the reading of its capture (R111). -/
theorem Pseudo.readBit_andThen (f : Bool → Proc β) :
    Pseudo.andThen (Pseudo.readBit cfg) f =
      Pseudo.andThen (Pseudo.transceive cfg.patRd) fun r => f (cfg.decodeBit r) := by
  funext s ws
  simp only [Pseudo.readBit, Pseudo.andThen]
  cases Pseudo.transceive cfg.patRd s ws <;> rfl

/-- The direction of the sequencer is the direction of R141's pseudocode. -/
theorem Pseudo.direction_eq_searchDirection : Pseudo.direction = searchDirection := by
  funext ld curId pos a b
  cases ld with
  | none => rfl
  | some l => simp [Pseudo.direction, searchDirection, discrepancyDirection]

end Pseudocode

/-! ### What follows an answer does not depend on the position it is reached from -/

section JobIrrelevant

variable (cfg : Config) (s : State) (j : Option Job)

theorem resetClassified_job_irrelevant (k : ResetCaller) (c : ResetClass) :
    resetClassified k c { s with job := j } = resetClassified k c s := by
  unfold resetClassified
  split
  · exact resetReturn_job_irrelevant ..
  · next e _ => exact resetReturn_job_irrelevant { s with errCode := e } j k false

theorem writeSlotDone_job_irrelevant (k : WriteCaller) : writeSlotDone k { s with job := j } = writeSlotDone k s := by
  unfold writeSlotDone
  dsimp only
  split
  · rfl
  · exact writeReturn_job_irrelevant { s with sh := shiftOut s.sh, bitcnt := s.bitcnt + 1#4 } j k

theorem positionRead_job_irrelevant (o : Owner) (a b : Bool) :
    positionRead o a b { s with job := j } = positionRead o a b s := by
  unfold positionRead
  split
  · exact endEnumeration_job_irrelevant { s with errCode := .noDevices } j o .stFalse
  · rfl

theorem positionDone_job_irrelevant (o : Owner) :
    positionDone cfg o { s with job := j } = positionDone cfg o s := by
  unfold positionDone
  dsimp only
  split
  · rfl
  · exact passComplete_job_irrelevant cfg { s with pos := s.pos + 1#7 } j o

theorem configured_job_irrelevant (p : ConfigPoint) : configured cfg p { s with job := j } = configured cfg p s := by
  cases p with
  | resetEntry => rfl
  | resetExit => exact resetClassified_job_irrelevant ..
  | alone => rfl

theorem transceived_job_irrelevant (p : TransceivePoint) (r : Capture) :
    transceived cfg p r { s with job := j } = transceived cfg p r s := by
  cases p with
  | resetPulse => rfl
  | writeSlot => exact writeSlotDone_job_irrelevant ..
  | readSlot => rfl
  | search o slot =>
    cases slot with
    | firstRead => rfl
    | secondRead => exact positionRead_job_irrelevant ..
    | writeBack => exact positionDone_job_irrelevant ..
  | alone => rfl

end JobIrrelevant

/-! ### An outstanding request and the next answer -/

section Answered

variable (cfg : Config) (s : State)

theorem takeAnswer_await_configuring (p : ConfigPoint) {a : Answer} (ha : a ≠ .failure) :
    takeAnswer cfg a (await (.configuring p) s) = configured cfg p (configureDone p.operand s) := by
  rw [takeAnswer_configuring cfg _ a p rfl]
  cases a with
  | failure => exact absurd rfl ha
  | captured => exact configured_job_irrelevant cfg (configureDone p.operand s) _ p
  | nothingOrDone => exact configured_job_irrelevant cfg (configureDone p.operand s) _ p

/-- A failed request of a host command answers `ST_XPORT` (R172). -/
theorem takeAnswer_await_failure {j : Job} (hj : j.isAlone = false) :
    takeAnswer cfg .failure (await j s) = respond .xport 0#64 [] (requestFailed (j.request cfg s.sh) s) := by
  have hraise : takeAnswer cfg .failure (await j s) = raiseTransportError cfg j (await j s) := by cases j <;> rfl
  rw [hraise, raiseTransportError]
  simp only [hj, await_sh]
  cases j.request cfg s.sh <;> rfl

theorem takeAnswer_await_captured (p : TransceivePoint) (c : Byte) :
    takeAnswer cfg (.captured c) (await (.transceiving p) s) =
      transceived cfg p (.captured c) (recordEvent (.xfer (p.byteSent cfg s.sh) (.captured c)) s) :=
  transceived_job_irrelevant cfg (recordEvent (.xfer (p.byteSent cfg s.sh) (.captured c)) s) _ p (.captured c)

theorem takeAnswer_await_nothing (p : TransceivePoint) :
    takeAnswer cfg .nothingOrDone (await (.transceiving p) s) =
      transceived cfg p .nothing (recordEvent (.xfer (p.byteSent cfg s.sh) .nothing) s) :=
  transceived_job_irrelevant cfg (recordEvent (.xfer (p.byteSent cfg s.sh) .nothing) s) _ p .nothing

end Answered

/-! ### The two side by side -/

/-- Draining `ws` from `u` comes to draining what is left of it, `q`, from `t`. -/
def Reaches (cfg : Config) (ws : List AnswerWord) (u : State) (q : List AnswerWord) (t : State) : Prop :=
  ∀ rest, drainQueue cfg (answers ws ++ rest) u = drainQueue cfg (answers q ++ rest) t

/-- `t` has the position and the responses of `s`: a procedure of the pseudocode writes neither. -/
structure SameCommand (s t : State) : Prop where
  job : t.job = s.job
  responses : t.responses = s.responses

/-- The sequencer, at `u` before the answers `ws`, does what a procedure of the pseudocode does, from `s` and ending as the
`Ran` says: it goes on by `next` when the procedure returns, with fewer than `n` answers left; it answers `ST_XPORT` when
the procedure raises a TransportError; and it stands at the request that the procedure waits on. -/
inductive InStep {α : Type} (cfg : Config) (n : Nat) (next : α → State → State) (s u : State) (ws : List AnswerWord) :
    Ran α → Prop
  | done {a : α} {t : State} {q : List AnswerWord} (hreach : Reaches cfg ws u q (next a t)) (hsame : SameCommand s t)
      (hfewer : q.length < n) : InStep cfg n next s u ws (.done a t q)
  | raised {t : State} {q : List AnswerWord} (hreach : Reaches cfg ws u q (respond .xport 0#64 [] t))
      (hsame : SameCommand s t) : InStep cfg n next s u ws (.raised t q)
  | waiting {r : Request} {t : State} (j : Job) (hrequest : j.request cfg t.sh = r) (hreach : Reaches cfg ws u [] (await j t))
      (hsame : SameCommand s t) : InStep cfg n next s u ws (.waiting r t)

/-- The end of a command, with its response (R11). -/
def answered (r : Response) (s : State) : State := { s with job := none, responses := s.responses ++ [r] }

section Rules

variable {α β : Type} {cfg : Config} {m n : Nat} {s s' t u u' : State} {ws ws' q : List AnswerWord}
  {next : α → State → State} {next' : β → State → State}

theorem Reaches.refl : Reaches cfg ws u ws u := fun _ => rfl

theorem Reaches.trans (h₁ : Reaches cfg ws u ws' u') (h₂ : Reaches cfg ws' u' q t) : Reaches cfg ws u q t :=
  fun rest => (h₁ rest).trans (h₂ rest)

/-- An outstanding request takes the next answer. -/
theorem reaches_takeAnswer (j : Job) (w : AnswerWord) :
    Reaches cfg (w :: q) (await j s) q (takeAnswer cfg (answerOfWord w) (await j s)) :=
  fun _ => drainQueue_answer cfg _ w _ rfl

theorem SameCommand.refl : SameCommand s s := ⟨rfl, rfl⟩

theorem SameCommand.trans (h₁ : SameCommand s s') (h₂ : SameCommand s' t) : SameCommand s t :=
  ⟨h₂.job.trans h₁.job, h₂.responses.trans h₁.responses⟩

/-- Steps before a procedure: the sequencer comes to `u'`, the pseudocode to `s'`. -/
theorem InStep.after {R : Ran α} (h : InStep cfg n next s' u' ws' R) (hreach : Reaches cfg ws u ws' u')
    (hsame : SameCommand s s') : InStep cfg n next s u ws R := by
  cases h with
  | done hr hs hf => exact .done (hreach.trans hr) (hsame.trans hs) hf
  | raised hr hs => exact .raised (hreach.trans hr) (hsame.trans hs)
  | waiting j hq hr hs => exact .waiting j hq (hreach.trans hr) (hsame.trans hs)

/-- Registers written by the pseudocode alone: the sequencer has written them too where it stands. -/
theorem InStep.written {R : Ran α} (h : InStep cfg n next s' u ws R) (hsame : SameCommand s s') :
    InStep cfg n next s u ws R := h.after .refl hsame

/-- One procedure, and then another from where the sequencer goes on. -/
theorem InStep.andThen {p : Proc α} {f : α → Proc β} (hp : InStep cfg m next s u ws (p s ws))
    (hf : ∀ a t q, q.length < m → InStep cfg n next' t (next a t) q (f a t q)) :
    InStep cfg n next' s u ws (Pseudo.andThen p f s ws) := by
  unfold Pseudo.andThen
  generalize p s ws = R at hp ⊢
  cases hp with
  | done hr hs hfewer => exact (hf _ _ _ hfewer).after hr hs
  | raised hr hs => exact .raised hr hs
  | waiting j hq hr hs => exact .waiting j hq hr hs

/-- A `Configure` and what follows it (R100). -/
theorem InStep.configure (p : ConfigPoint) {f : Unit → Proc β} (hp : (Job.configuring p).isAlone = false)
    (hws : ws.length ≤ n)
    (hf : ∀ q, q.length < n → InStep cfg n next' (configureDone p.operand s)
      (configured cfg p (configureDone p.operand s)) q (f () (configureDone p.operand s) q)) :
    InStep cfg n next' s (await (.configuring p) s) ws (Pseudo.andThen (Pseudo.configure p.operand) f s ws) := by
  cases ws with
  | nil => exact .waiting _ rfl .refl .refl
  | cons w q =>
    have htake := reaches_takeAnswer (cfg := cfg) (s := s) (q := q) (.configuring p) w
    unfold Pseudo.andThen Pseudo.configure
    dsimp only
    cases ha : answerOfWord w with
    | failure =>
      rw [ha, takeAnswer_await_failure cfg s hp] at htake
      exact .raised htake ⟨rfl, rfl⟩
    | captured c =>
      rw [ha, takeAnswer_await_configuring cfg s p (by simp)] at htake
      exact (hf q hws).after htake ⟨rfl, rfl⟩
    | nothingOrDone =>
      rw [ha, takeAnswer_await_configuring cfg s p (by simp)] at htake
      exact (hf q hws).after htake ⟨rfl, rfl⟩

/-- A `Transceive` and what follows its capture (R101). -/
theorem InStep.transceive (p : TransceivePoint) {f : Capture → Proc β} (hp : (Job.transceiving p).isAlone = false)
    (hws : ws.length ≤ n)
    (hf : ∀ r q, q.length < n → InStep cfg n next' (recordEvent (.xfer (p.byteSent cfg s.sh) r) s)
      (transceived cfg p r (recordEvent (.xfer (p.byteSent cfg s.sh) r) s)) q
      (f r (recordEvent (.xfer (p.byteSent cfg s.sh) r) s) q)) :
    InStep cfg n next' s (await (.transceiving p) s) ws
      (Pseudo.andThen (Pseudo.transceive (p.byteSent cfg s.sh)) f s ws) := by
  cases ws with
  | nil => exact .waiting _ rfl .refl .refl
  | cons w q =>
    have htake := reaches_takeAnswer (cfg := cfg) (s := s) (q := q) (.transceiving p) w
    unfold Pseudo.andThen Pseudo.transceive
    dsimp only
    cases ha : answerOfWord w with
    | failure =>
      rw [ha, takeAnswer_await_failure cfg s hp] at htake
      exact .raised htake ⟨rfl, rfl⟩
    | captured c =>
      rw [ha, takeAnswer_await_captured] at htake
      exact (hf _ q hws).after htake ⟨rfl, rfl⟩
    | nothingOrDone =>
      rw [ha, takeAnswer_await_nothing] at htake
      exact (hf _ q hws).after htake ⟨rfl, rfl⟩

/-- A procedure, and the response that ends the command. -/
theorem InStep.thenRespond {p : Proc α} {answer : α → State → Response} (h : InStep cfg n next s u ws (p s ws))
    (hnext : ∀ a t, next a t = answered (answer a t) t) :
    InStep cfg n answered s u ws (Pseudo.thenRespond p answer s ws) :=
  h.andThen fun a t _ hfewer => hnext a t ▸ .done .refl .refl hfewer

end Rules

end Sys2Proof.Machine
end

section
/-! Every procedure of the pseudocode, and the sequencer in step with it. -/

namespace Sys2Proof.Machine

open Sys2Proof.Claims

variable (cfg : Config) {n : Nat} {ws : List AnswerWord}

/-! ### Bytes -/

theorem writeSlots_inStep (c : WriteCaller) (hc : (Job.transceiving (.writeSlot c)).isAlone = false) (k : Nat) :
    ∀ (s : State) (ws : List AnswerWord), s.bitcnt.toNat + (k + 1) = 8 → ws.length ≤ n →
      InStep cfg n (fun _ => writeReturn c) s (await (.transceiving (.writeSlot c)) s) ws
        (Pseudo.writeSlots cfg (k + 1) s ws) := by
  induction k with
  | zero =>
    intro s ws hcount hws
    rw [Pseudo.writeSlots, Pseudo.read_apply, Pseudo.writeBit_andThen]
    refine .transceive (.writeSlot c) hc hws fun r q hq => ?_
    rw [transceived, writeSlotDone_last _ _ (by simp; omega)]
    exact .done .refl ⟨rfl, rfl⟩ hq
  | succ k ih =>
    intro s ws hcount hws
    rw [Pseudo.writeSlots, Pseudo.read_apply, Pseudo.writeBit_andThen]
    refine .transceive (.writeSlot c) hc hws fun r q hq => ?_
    rw [transceived, writeSlotDone_more _ _ (by simp; omega)]
    exact (ih _ q (by simp; omega) hq.le).written ⟨rfl, rfl⟩

theorem writeByte_inStep (c : WriteCaller) (hc : (Job.transceiving (.writeSlot c)).isAlone = false) (v : Byte) (s : State)
    (hws : ws.length ≤ n) :
    InStep cfg n (fun _ => writeReturn c) s (startWriteByte c v s) ws (Pseudo.writeByte cfg v s ws) :=
  (writeSlots_inStep cfg c hc 7 { s with sh := v, bitcnt := 0#4 } ws rfl hws).written ⟨rfl, rfl⟩

theorem readSlots_inStep (k : Nat) :
    ∀ (s : State) (ws : List AnswerWord), s.bitcnt.toNat + (k + 1) = 8 → ws.length ≤ n →
      InStep cfg n (fun _ t => respond .ok (t.sh.zeroExtend 64) [] t) s (await (.transceiving .readSlot) s) ws
        (Pseudo.readSlots cfg (k + 1) s ws) := by
  induction k with
  | zero =>
    intro s ws hcount hws
    rw [Pseudo.readSlots, Pseudo.readBit_andThen]
    refine .transceive .readSlot rfl hws fun r q hq => ?_
    rw [transceived, readSlotDone_last _ _ (by simp; omega)]
    exact .done .refl ⟨rfl, rfl⟩ hq
  | succ k ih =>
    intro s ws hcount hws
    rw [Pseudo.readSlots, Pseudo.readBit_andThen]
    refine .transceive .readSlot rfl hws fun r q hq => ?_
    rw [transceived, readSlotDone_more _ _ (by simp; omega)]
    exact (ih _ q (by simp; omega) hq.le).written ⟨rfl, rfl⟩

theorem readByte_inStep (s : State) (hws : ws.length ≤ n) :
    InStep cfg n (fun v : Byte => respond .ok (v.zeroExtend 64) []) s (startReadByte s) ws (Pseudo.readByte cfg s ws) := by
  have hslots := readSlots_inStep cfg 7 { s with sh := 0#8, bitcnt := 0#4 } ws rfl hws
  exact (hslots.andThen fun _ _ _ hq => .done .refl .refl hq).written ⟨rfl, rfl⟩

/-! ### RESET -/

theorem reset_inStep (k : ResetCaller) (s : State) (hws : ws.length ≤ n) :
    InStep cfg n (fun ok => resetReturn k ok) s (startReset k s) ws (Pseudo.reset cfg s ws) := by
  refine (InStep.configure (.resetEntry k) rfl hws fun q hq => ?_).written
    (s' := { s with errCode := .noError }) ⟨rfl, rfl⟩
  refine .transceive (.resetPulse k) rfl hq.le fun r q hq => ?_
  refine .configure (.resetExit k r) rfl hq.le fun q hq => ?_
  dsimp only [configured]
  cases cfg.classifyReset r with
  | presence => exact .done .refl .refl hq
  | noDevices => exact .done .refl ⟨rfl, rfl⟩ hq
  | noBus => exact .done .refl ⟨rfl, rfl⟩ hq

/-! ### The search -/

/-- What follows the positions of a pass: the append and the end test, or the abort (R145, R146). -/
def passReturn (o : Owner) (complete : Bool) (s : State) : State :=
  if complete then passComplete cfg o s else endEnumeration o .stFalse s

/-- The two writes of R144 are the one update of the sequencer. -/
theorem positionRead_writes (o : Owner) (s : State) (a b : Bool) (hab : (a && b) = false) :
    positionRead o a b s =
      let d := Pseudo.direction s.ld s.curId s.pos.toNat a b
      let s' := if a == b && d == false then { s with lz := some (s.pos.setWidth 6) } else s
      await (.transceiving (.search o (.writeBack d)))
        { s' with curId := DeviceId.withBit s'.curId s'.pos.toNat d } := by
  rw [positionRead_direction s o a b hab, Pseudo.direction_eq_searchDirection]
  generalize searchDirection s.ld s.curId s.pos.toNat a b = d
  have hrecord : (!a && !b && !d) = (a == b && d == false) := by revert a b d; decide
  dsimp only
  rw [hrecord]
  cases a == b && d == false <;> rfl

/-- One wire position: the two reads, then the write-back or the anomaly. -/
theorem position_inStep (o : Owner) (k : Nat) (s : State) (hws : ws.length ≤ n)
    (hdone : ∀ t q, t.pos = s.pos → q.length < n → InStep cfg n (passReturn cfg o) t (positionDone cfg o t) q
      (Pseudo.positions cfg k { t with pos := t.pos + 1#7 } q)) :
    InStep cfg n (passReturn cfg o) s (startPosition o s) ws (Pseudo.positions cfg (k + 1) s ws) := by
  rw [Pseudo.positions, Pseudo.readBit_andThen]
  refine .transceive (.search o .firstRead) rfl hws fun r q hq => ?_
  rw [Pseudo.readBit_andThen]
  refine .transceive (.search o (.secondRead (cfg.decodeBit r))) rfl hq.le fun r' q hq => ?_
  dsimp only [transceived]
  generalize cfg.decodeBit r = a
  generalize cfg.decodeBit r' = b
  cases hab : a && b with
  | true =>
    obtain ⟨rfl, rfl⟩ : a = true ∧ b = true := by simpa using hab
    exact .done .refl ⟨rfl, rfl⟩ hq
  | false =>
    rw [positionRead_writes o _ a b hab]
    simp only [Bool.false_eq_true, if_false, Pseudo.read_apply, Pseudo.write_andThen_apply]
    rw [Pseudo.writeBit_andThen]
    refine InStep.written (.transceive (.search o (.writeBack _)) rfl hq.le fun r q hq => ?_) ?_
    · exact hdone _ q (by split <;> rfl) hq
    · split <;> exact ⟨rfl, rfl⟩

theorem positions_inStep (o : Owner) (k : Nat) :
    ∀ (s : State) (ws : List AnswerWord), s.pos.toNat + (k + 1) = 64 → ws.length ≤ n →
      InStep cfg n (passReturn cfg o) s (startPosition o s) ws (Pseudo.positions cfg (k + 1) s ws) := by
  induction k with
  | zero =>
    intro s ws hcount hws
    refine position_inStep cfg o 0 s hws fun t q hpos hq => ?_
    rw [positionDone_last cfg t o (by simp [hpos]; omega)]
    exact .done .refl ⟨rfl, rfl⟩ hq
  | succ k ih =>
    intro s ws hcount hws
    refine position_inStep cfg o (k + 1) s hws fun t q hpos hq => ?_
    rw [positionDone_more cfg t o (by simp [hpos]; omega)]
    exact (ih _ q (by simp [hpos]; omega) hq.le).written ⟨rfl, rfl⟩

theorem searchPass_inStep (o : Owner) (s : State) (hws : ws.length ≤ n) :
    InStep cfg n (passReturn cfg o) s (startPass o s) ws (Pseudo.searchPass cfg s ws) := by
  refine (reset_inStep cfg (.pass o) s hws).andThen fun ok t q hq => ?_
  cases ok with
  | false => exact .done .refl .refl hq
  | true =>
    refine (writeByte_inStep cfg (.pass o) rfl romSearchByte t hq.le).andThen fun _ t q hq => ?_
    exact (positions_inStep cfg o 63 { t with lz := none, pos := 0#7 } q rfl hq.le).written ⟨rfl, rfl⟩

/-- The append of a completed pass, and its two refusals (R147, R149). -/
theorem store_inStep (o : Owner) (s : State) (hws : ws.length < n) :
    InStep cfg n (fun stored t => if stored then nextPass o t else endEnumeration o .ovf t) s (passComplete cfg o s) ws
      (Pseudo.store cfg s ws) := by
  rw [Pseudo.store, Pseudo.read_apply]
  by_cases hmem : s.curId ∈ s.reg
  · rw [passComplete_known cfg s o hmem, if_pos hmem]
    exact .done .refl .refl hws
  · rw [if_neg hmem]
    by_cases hfull : cfg.regCapacity ≤ s.reg.length
    · rw [passComplete_full cfg s o hmem hfull, if_pos hfull]
      exact .done .refl .refl hws
    · rw [passComplete_new cfg s o hmem (by omega), if_neg hfull]
      exact .done .refl ⟨rfl, rfl⟩ hws

/-- The pass loop: every pass takes an answer, so that a number of rounds above the length of the supply lasts. -/
theorem passes_inStep (o : Owner) (rounds : Nat) :
    ∀ (s : State) (ws : List AnswerWord), ws.length < rounds → ws.length ≤ n →
      InStep cfg n (fun e => endEnumeration o e.status) s (startPass o s) ws (Pseudo.passes cfg rounds s ws) := by
  induction rounds with
  | zero => intro s ws hrounds; omega
  | succ rounds ih =>
    intro s ws hrounds hws
    refine (searchPass_inStep cfg o s le_rfl).andThen fun complete t q hq => ?_
    cases complete with
    | false => exact .done .refl .refl (by omega)
    | true =>
      refine (store_inStep cfg o t hq).andThen fun stored t q hq => ?_
      cases stored with
      | false => exact .done .refl .refl (by omega)
      | true =>
        simp only [if_true, Pseudo.read_apply]
        cases hlz : t.lz with
        | none => rw [nextPass_end t o hlz]; exact .done .refl .refl (by omega)
        | some p =>
          rw [nextPass_more t o p hlz]
          exact (ih { t with ld := some p } q (by omega) (by omega)).written ⟨rfl, rfl⟩

theorem discover_inStep (o : Owner) (s : State) (hws : ws.length ≤ n) :
    InStep cfg n (fun e => endEnumeration o e.status) s (startDiscover o s) ws (Pseudo.discover cfg s ws) :=
  (passes_inStep cfg o (ws.length + 1) (clearForEnumeration s) ws (Nat.lt_succ_self _) hws).written ⟨rfl, rfl⟩

theorem initialise_inStep (s : State) (hws : ws.length ≤ n) :
    InStep cfg n (fun e => endEnumeration .init e.status) s (startReset .init s) ws (Pseudo.initialise cfg s ws) := by
  refine (reset_inStep cfg .init s hws).andThen fun ok t q hq => ?_
  cases ok with
  | false => exact .done .refl .refl hq
  | true => exact discover_inStep cfg .init t hq.le

/-! ### The host commands -/

theorem byteCommand_inStep (c : ByteCommand) (v : Byte) (s : State) (hws : ws.length ≤ n) :
    InStep cfg n answered s (startWriteByte (.command c) v s) ws
      (Pseudo.thenRespond (Pseudo.writeByte cfg v) (fun _ _ => bare .ok) s ws) :=
  (writeByte_inStep cfg (.command c) rfl v s hws).thenRespond fun _ _ => rfl

/-- A command of the pseudocode is a host command of the machine, and the sequencer runs it in step. -/
theorem command_inStep {i : Instr} {p : Proc Response} (h : Pseudo.command hw i = some p) :
    ∃ start, HostStart start ∧ (∀ s, exec i s = .next (runCommand hw start s)) ∧
      ∀ s ws, InStep hw ws.length answered s (start s) ws (p s ws) := by
  cases i with
  | init =>
    cases h
    exact ⟨_, .init, fun _ => rfl, fun s _ => (initialise_inStep hw s le_rfl).thenRespond fun _ _ => rfl⟩
  | reset =>
    cases h
    exact ⟨_, .reset, fun _ => rfl, fun s _ => (reset_inStep hw .command s le_rfl).thenRespond fun _ _ => rfl⟩
  | discover =>
    cases h
    exact ⟨_, .discover, fun _ => rfl, fun s _ => (discover_inStep hw .discover s le_rfl).thenRespond fun _ _ => rfl⟩
  | writeByte v =>
    cases h
    exact ⟨_, .writeByte .writeByte v, fun _ => rfl, fun s _ => byteCommand_inStep hw _ _ s le_rfl⟩
  | readByte =>
    cases h
    exact ⟨_, .readByte, fun _ => rfl, fun s _ => (readByte_inStep hw s le_rfl).thenRespond fun _ _ => rfl⟩
  | skipRom =>
    cases h
    exact ⟨_, .writeByte .skipRom _, fun _ => rfl, fun s _ => byteCommand_inStep hw _ _ s le_rfl⟩
  | readRom =>
    cases h
    exact ⟨_, .writeByte .readRom _, fun _ => rfl, fun s _ => byteCommand_inStep hw _ _ s le_rfl⟩
  | searchRom =>
    cases h
    exact ⟨_, .writeByte .searchRom _, fun _ => rfl, fun s _ => byteCommand_inStep hw _ _ s le_rfl⟩
  | matchRom =>
    cases h
    exact ⟨_, .writeByte .matchRom _, fun _ => rfl, fun s _ => byteCommand_inStep hw _ _ s le_rfl⟩
  | _ => cases h

theorem HostStart.inbox {start : State → State} (h : HostStart start) (s : State) : (start s).inbox = s.inbox := by
  cases h <;> rfl

/-- From an idle engine a command comes as far as its answers take it, and then the rest of the inbox is offered. -/
theorem exec_of_reaches {i : Instr} {start : State → State} (hstart : HostStart start)
    (hexec : ∀ s, exec i s = .next (runCommand hw start s)) {s t : State} {q : List AnswerWord} {rest : List Input}
    (hjob : s.job = none) (hinbox : s.inbox = answers ws ++ rest) (hreach : Reaches hw ws (start s) q t) :
    exec i s = .next (drainQueue hw (answers q ++ rest) t) := by
  rw [hexec, runCommand_idle hw s start hjob, hstart.inbox, hinbox, hreach]

end Sys2Proof.Machine
end

section
/-! The statements of 20_memory.md. -/

namespace Sys2Proof.Claims

open Sys2Proof.Machine

/-- Settles O42: the sequencer and the pseudocode, in step, stand at the same request when the answers run out. -/
theorem unansweredCommandsWait : Obligations.UnansweredCommandsWait := by
  unfold Obligations.UnansweredCommandsWait
  intro i p s t r ws rest hp hjob hinbox hrest hwait
  obtain ⟨start, hstart, hexec, hstep⟩ := command_inStep hp
  have hsync := hstep s ws
  rw [hwait] at hsync
  cases hsync with
  | waiting j hrequest hreach hsame =>
    refine ⟨{ t with inbox := rest, job := some j }, j, ?_, rfl, ?_, rfl, hsame.responses⟩
    · rw [exec_of_reaches hstart hexec hjob hinbox hreach]
      exact congrArg _ (drainQueue_noAnswer hw _ rest hrest)
    · rw [← hrequest]
      rfl

end Sys2Proof.Claims
end

section
/-! Command words: which row the decoder of format HC reads from a word, by its `OPC` (30_encoding.md R70, R72, R82). -/

namespace Sys2Proof

open Sys2Proof.Claims

/-! ### The two fields of a word -/

/-- `cmd & 0xFF00` is the command word of the `OPC` alone (R72). -/
theorem opcMask_eq (w : CommandWord) : w &&& 0xFF00#16 = commandWord (opcOf w) 0#8 :=
  calc w &&& 0xFF00#16 = (opcOf w ++ argOf w) &&& (BitVec.allOnes 8 ++ 0#8) :=
        congrArg (· &&& 0xFF00#16) (commandWord_opcOf_argOf w).symm
    _ = (opcOf w &&& BitVec.allOnes 8) ++ (argOf w &&& 0#8) := BitVec.and_append
    _ = commandWord (opcOf w) 0#8 := by rw [BitVec.and_allOnes, BitVec.and_zero, commandWord]

theorem setWidth_eq_argOf (w : CommandWord) : w.setWidth 8 = argOf w := BitVec.setWidth_eq_extractLsb' (by omega)

theorem commandWord_of_opcOf {w : CommandWord} {opc : Byte} (h : (opcOf w).toNat = opc.toNat) :
    commandWord opc (argOf w) = w := by
  rw [← BitVec.eq_of_toNat_eq h, commandWord_opcOf_argOf]

/-- An `OPC` in the range that `fixed` selects is `fixed` and its free bits (R82). -/
theorem commandWord_of_opcRange {n m : Nat} (h : n + m = 8) (fixed : BitVec n) {w : CommandWord}
    (hrange : (opcOf w).toNat / 2 ^ m = fixed.toNat) :
    commandWord ((fixed ++ w.extractLsb' 8 m).cast h) (argOf w) = w := by
  have hfree : (w.extractLsb' 8 m).toNat = (opcOf w).toNat % 2 ^ m := by
    have hdvd : 2 ^ m ∣ 2 ^ 8 := pow_dvd_pow 2 (by omega)
    simp only [opcOf, BitVec.extractLsb'_toNat, Nat.mod_mod_of_dvd _ hdvd]
  refine commandWord_of_opcOf ?_
  rw [BitVec.toNat_cast, BitVec.toNat_append, hfree, ← hrange, Nat.shiftLeft_eq, Nat.mul_comm,
    ← Nat.two_pow_add_eq_or_of_lt (Nat.mod_lt _ (by positivity)), Nat.div_add_mod]

/-! ### The rows -/

/-- R82: the reserved `OPC`s are 0x00 and those from 0x0E on. -/
theorem isReserved_decodeHost (w : CommandWord) :
    isReserved (decodeHost w) = true ↔ opcOf w = 0x00#8 ∨ 0x0E#8 ≤ opcOf w := by
  rw [BitVec.le_def, ← BitVec.toNat_inj]
  unfold decodeHost
  dsimp only
  split
  case h_17 =>
    have hopc : 0x0E ≤ (opcOf w).toNat := by grind
    split_ifs <;> exact iff_of_true rfl (.inr hopc)
  all_goals simp [isReserved, *]

/-- No bit of a command word is lost in its row. -/
theorem encode_decodeHost (w : CommandWord) : encode (decodeHost w) = .host w := by
  unfold decodeHost
  dsimp only
  split
  case h_17 =>
    have hopc : 16 ≤ (opcOf w).toNat := by grind
    split_ifs
    · exact congrArg _ (commandWord_of_opcRange rfl 0b0001#4 (by simp; omega))
    · exact congrArg _ (commandWord_of_opcRange rfl 0b001#3 (by simp; omega))
    · exact congrArg _ (commandWord_of_opcRange rfl 0b01#2 (by simp; omega))
    · exact congrArg _ (commandWord_of_opcRange rfl 0b1#1 (by simp; omega))
  all_goals exact congrArg _ (commandWord_of_opcOf ‹_›)

section CommandRows

variable {row : CommandWord × (Byte → Instr)}

/-- The word that the table of R72 gives a row has no operand. -/
theorem commandRows_word (h : row ∈ commandRows) : row.1 = commandWord (opcOf row.1) 0#8 := by
  fin_cases h <;> rfl

theorem encode_commandRow (h : row ∈ commandRows) (arg : Byte) :
    encode (row.2 arg) = .host (commandWord (opcOf row.1) arg) := by
  fin_cases h <;> rfl

theorem decodeHost_commandRow (h : row ∈ commandRows) {w : CommandWord} (hopc : opcOf w = opcOf row.1) :
    decodeHost w = row.2 (argOf w) := by
  unfold decodeHost
  rw [hopc]
  fin_cases h <;> rfl

/-- R72, with the `OPC` as a field: a word is read as the row of its `OPC`, and as no other row. -/
theorem decodeHost_eq_commandRow_iff (h : row ∈ commandRows) (w : CommandWord) :
    decodeHost w = row.2 (argOf w) ↔ opcOf w = opcOf row.1 := by
  refine ⟨fun hdecode => ?_, decodeHost_commandRow h⟩
  have hword : PortWord.host w = .host (commandWord (opcOf row.1) (argOf w)) := by
    rw [← encode_decodeHost w, hdecode, encode_commandRow h]
  rw [PortWord.host.inj hword, opcOf_commandWord]

/-- R72, as the mask of the spec. -/
theorem opcMask_eq_commandRow_iff (h : row ∈ commandRows) (w : CommandWord) :
    w &&& 0xFF00#16 = row.1 ↔ opcOf w = opcOf row.1 := by
  rw [opcMask_eq]
  constructor
  · intro hmask
    rw [← hmask, opcOf_commandWord]
  · intro hopc
    rw [hopc, ← commandRows_word h]

end CommandRows

end Sys2Proof
end

section
/-! Command words of the reserved `OPC` space, in a step (30_encoding.md R82). -/

namespace Sys2Proof.Machine

open Sys2Proof.Claims

theorem exec_of_isReserved {i : Instr} (h : isReserved i = true) (s : State) : exec i s = .next (rejectWord s) := by
  cases i with
  | reserved00 | reserved0E | reserved0F | reserved10to1F | reserved20to3F | reserved40to7F | reserved80toFF => rfl
  | _ => cases h

/-- A step on a command word is the row of that word, the word taken. -/
theorem step_host {s : State} {w : CommandWord} {rest : List Input} (h : s.inbox = .word (.host w) :: rest) :
    step s = exec (decodeHost w) { s with inbox := rest } := by
  simp only [step, fetch, h, decode]

end Sys2Proof.Machine
end

section
/-! A procedure of one request, run on its own and answered (40_transport.md R100, R101; log 4). -/

namespace Sys2Proof.Machine

open Sys2Proof.Safety

variable (cfg : Config)

/-- The two fields of an answer word (R79). -/
theorem decodeAnswer_append (kind : BitVec 2) (low : Byte) :
    decodeAnswer (kind ++ low) =
      if kind = 0#2 then .xaCaptured low
      else if kind = 2#2 then .xaFailure low
      else if kind = 1#2 ∧ low = 0#8 then .xaNothingOrDone
      else .xaReserved kind low := by
  have hkind : (kind ++ low).extractLsb' 8 2 = kind := (extract_append_high kind low).trans (extract_whole kind)
  have hlow : (kind ++ low).extractLsb' 0 8 = low := (extract_append_low kind low le_rfl).trans (extract_whole low)
  unfold decodeAnswer
  dsimp only
  rw [hkind, hlow]

@[simp] theorem answerOfWord_captured (c : Byte) : answerOfWord (answerWord (.captured c)) = .captured c := by
  simp [answerOfWord, answerWord, decodeAnswer_append, answerOfInstr]

@[simp] theorem answerOfWord_nothing : answerOfWord (answerWord .nothing) = .nothingOrDone := rfl

@[simp] theorem answerOfWord_failure (low : Byte) : answerOfWord (2#2 ++ low) = .failure := by
  simp [answerOfWord, decodeAnswer_append, answerOfInstr]

theorem answerOfWord_answerWord_ne_failure (r : Capture) : answerOfWord (answerWord r) ≠ .failure := by
  cases r <;> simp

/-- A failed request of a procedure that runs on its own is its result (R172; log 4). -/
theorem takeAnswer_await_failure_alone {j : Job} (hj : j.isAlone = true) (s : State) :
    takeAnswer cfg .failure (await j s) =
      finishAlone (.transportError (j.request cfg s.sh)) (requestFailed (j.request cfg s.sh) s) := by
  have hraise : takeAnswer cfg .failure (await j s) = raiseTransportError cfg j (await j s) := by cases j <;> rfl
  rw [hraise, raiseTransportError]
  simp only [hj, await_sh]
  cases j.request cfg s.sh <;> rfl

/-- An answer that ends the procedure leaves the engine idle again, and what is behind it in the inbox. -/
theorem runAlone_of_finishAlone {j : Job} {s t : State} {w : AnswerWord} {rest : List Input} {r : LoneResult}
    (hjob : s.job = none) (hinbox : s.inbox = .word (.answer w) :: rest)
    (hends : takeAnswer cfg (answerOfWord w) (await j s) = finishAlone r t) :
    runAlone cfg (await j) s = { t with job := s.job, ret := some r, inbox := rest } := by
  rw [runAlone_idle cfg s _ hjob, await_inbox, hinbox, drainQueue_answer cfg _ w rest rfl, hends,
    drainQueue_idle cfg _ rest rfl, hjob]
  rfl

end Sys2Proof.Machine
end

section
/-! The statements of 30_encoding.md. -/

namespace Sys2Proof.Claims

open Sys2Proof.Machine

/-- Settles O5: the decoder reads such a word as a reserved row, and every reserved row rejects. -/
theorem reservedWordRejected : Obligations.ReservedWordRejected := by
  unfold Obligations.ReservedWordRejected
  intro s w rest hinbox hopc
  rw [step_host hinbox]
  exact exec_of_isReserved ((isReserved_decodeHost w).mpr hopc) _

/-- Settles O3: the mask and the decoder both select a row by the `OPC` field. -/
theorem commandSelectedByOpc : Obligations.CommandSelectedByOpc := by
  unfold Obligations.CommandSelectedByOpc
  intro row hrow w
  rw [setWidth_eq_argOf, opcMask_eq_commandRow_iff hrow, decodeHost_eq_commandRow_iff hrow]

/-- Settles O26: the one request of CONFIGURE is answered, done or failed, and the procedure has ended. -/
theorem configureCompletes : Obligations.ConfigureCompletes := by
  unfold Obligations.ConfigureCompletes
  intro m s r low rest hjob
  constructor
  · intro hinbox
    have hends := takeAnswer_await_configuring hw s (.alone m) (answerOfWord_answerWord_ne_failure r)
    refine congrArg _ ((runAlone_of_finishAlone hw hjob hinbox hends).trans ?_)
    cases m <;> rfl
  · intro hinbox
    have hends := takeAnswer_await_failure_alone hw (j := .configuring (.alone m)) rfl s
    rw [← answerOfWord_failure low] at hends
    exact congrArg _ (runAlone_of_finishAlone hw hjob hinbox hends)

end Sys2Proof.Claims
end

section
/-! Answers that stand at the head of the inbox when a host command is accepted, one request at a time. -/

namespace Sys2Proof.Machine

open Sys2Proof.Claims Sys2Proof.Safety

variable {cfg : Config} {s t : State} {q ws : List AnswerWord}

/-- An outstanding `Transceive` takes the answer that brings back `r` (R101). -/
theorem reaches_transceived (p : TransceivePoint) (r : Capture) :
    Reaches cfg (answerWord r :: q) (await (.transceiving p) s) q
      (transceived cfg p r (recordEvent (.xfer (p.byteSent cfg s.sh) r) s)) := by
  have htake := reaches_takeAnswer (cfg := cfg) (s := s) (q := q) (.transceiving p) (answerWord r)
  cases r with
  | captured c => rwa [answerOfWord_captured, takeAnswer_await_captured] at htake
  | nothing => rwa [answerOfWord_nothing, takeAnswer_await_nothing] at htake

/-- The outstanding request of a host command takes a failure (R172). -/
theorem reaches_failure {j : Job} (hj : j.isAlone = false) (low : Byte) :
    Reaches cfg ((2#2 ++ low) :: q) (await j s) q
      (respond .xport 0#64 [] (requestFailed (j.request cfg s.sh) s)) := by
  have htake := reaches_takeAnswer (cfg := cfg) (s := s) (q := q) j (2#2 ++ low)
  rwa [answerOfWord_failure, takeAnswer_await_failure cfg s hj] at htake

/-- A command that its answers bring to its response leaves in the inbox what stands behind them. -/
theorem exec_of_reaches_respond {i : Instr} {start : State → State} {rest : List Input} {st : Status} {d : BitVec 64}
    {b : List DeviceId} (hstart : HostStart start) (hexec : ∀ s, exec i s = .next (runCommand hw start s))
    (hjob : s.job = none) (hinbox : s.inbox = answers ws ++ rest)
    (hreach : Reaches hw ws (start s) [] (respond st d b t)) :
    exec i s = .next { t with
      job := s.job
      inbox := rest
      responses := t.responses ++ [{ status := st, data := d, beats := b }] } := by
  rw [exec_of_reaches hstart hexec hjob hinbox hreach, hjob]
  exact congrArg _ (drainQueue_idle hw _ rest rfl)

theorem brings_append_failure (rs : List Capture) (low : Byte) (rest : List Input) :
    brings rs ++ .word (.answer (2#2 ++ low)) :: rest =
      answers (rs.map answerWord ++ [2#2 ++ low]) ++ rest := by simp [brings, answers]

end Sys2Proof.Machine
end

section
/-! The eight slots of a written byte (41_codec.md R113), for every caller of WRITE_BYTE. -/

namespace Sys2Proof.Machine

open Sys2Proof.Claims Sys2Proof.Safety

theorem hw_writePattern (v : Bool) : hw.writePattern v = slotByte v := rfl

/-- After `n` shifts bit `n` is the one that is sent. -/
theorem shiftOut_iterate_getLsbD (v : Byte) (n i : Nat) (h : n + i < 8) :
    (shiftOut^[n] v).getLsbD i = v.getLsbD (n + i) := by
  induction n generalizing i with
  | zero => simp
  | succ n ih =>
    rw [Function.iterate_succ_apply', shiftOut_getLsbD _ i (by omega), ih (i + 1) (by omega)]
    congr 1
    omega

/-- The event of one more slot. -/
theorem slotEvents_concat (v : Byte) (rs : List Capture) (r : Capture) (h : rs.length < 8) :
    slotEvents v (rs ++ [r]) = slotEvents v rs ++ [.xfer (slotByte (v.getLsbD rs.length)) r] := by
  refine List.ext_getElem (by simp [slotEvents]; omega) fun k hk _ => ?_
  have hk' : k ≤ rs.length := by simp [slotEvents] at hk; omega
  obtain hlt | rfl := hk'.lt_or_eq
  · simp [slotEvents, hlt, show k < 8 by omega]
  · simp [slotEvents]

/-- The registers and the trace of WRITE_BYTE once its first slots have brought back `rs`. -/
def slotsWritten (v : Byte) (rs : List Capture) (s : State) : State :=
  { s with
    sh := shiftOut^[rs.length] v
    bitcnt := BitVec.ofNat 4 rs.length
    trace := s.trace ++ slotEvents v rs }

variable {v : Byte} {rs : List Capture} {s : State} {q : List AnswerWord}

theorem startWriteByte_eq (c : WriteCaller) :
    startWriteByte c v s = await (.transceiving (.writeSlot c)) (slotsWritten v [] s) := by
  simp [startWriteByte, slotsWritten, slotEvents]

theorem byteSent_slotsWritten (c : WriteCaller) (h : rs.length < 8) :
    (TransceivePoint.writeSlot c).byteSent hw (slotsWritten v rs s).sh = slotByte (v.getLsbD rs.length) := by
  simp only [TransceivePoint.byteSent, hw_writePattern, slotsWritten]
  rw [shiftOut_iterate_getLsbD v rs.length 0 h, Nat.add_zero]

/-- The writes of R113 after a slot. -/
theorem slotsWritten_concat (c : WriteCaller) (r : Capture) (h : rs.length < 8) :
    slotsWritten v (rs ++ [r]) s =
      { recordEvent (.xfer ((TransceivePoint.writeSlot c).byteSent hw (slotsWritten v rs s).sh) r)
          (slotsWritten v rs s) with
        sh := shiftOut (slotsWritten v rs s).sh
        bitcnt := (slotsWritten v rs s).bitcnt + 1#4 } := by
  rw [byteSent_slotsWritten c h]
  simp [slotsWritten, recordEvent, slotEvents_concat v rs r h, Function.iterate_succ_apply', BitVec.ofNat_add]

/-- Fewer than eight answers: the slots before the outstanding one have gone out. -/
theorem reaches_slotsWritten (c : WriteCaller) (h : rs.length < 8) :
    Reaches hw (rs.map answerWord ++ q) (startWriteByte c v s) q
      (await (.transceiving (.writeSlot c)) (slotsWritten v rs s)) := by
  induction rs using List.reverseRecOn generalizing q with
  | nil => exact startWriteByte_eq c ▸ .refl
  | append_singleton rs r ih =>
    rw [List.length_append, List.length_singleton] at h
    have hslot := reaches_transceived (cfg := hw) (s := slotsWritten v rs s) (q := q) (.writeSlot c) r
    rw [transceived, writeSlotDone_more _ _ (by simp [slotsWritten, recordEvent]; omega)] at hslot
    rw [slotsWritten_concat c r (by omega), List.map_append, List.append_assoc]
    exact (ih (q := answerWord r :: q) (by omega)).trans hslot

/-- Eight answers: the byte has gone out, and WRITE_BYTE returns to its caller. -/
theorem reaches_byteWritten (c : WriteCaller) (h : rs.length = 8) :
    Reaches hw (rs.map answerWord ++ q) (startWriteByte c v s) q (writeReturn c (slotsWritten v rs s)) := by
  cases rs using List.reverseRecOn with
  | nil => cases h
  | append_singleton rs r =>
    rw [List.length_append, List.length_singleton] at h
    have hslot := reaches_transceived (cfg := hw) (s := slotsWritten v rs s) (q := q) (.writeSlot c) r
    rw [transceived, writeSlotDone_last _ _ (by simp [slotsWritten, recordEvent]; omega)] at hslot
    rw [slotsWritten_concat c r (by omega), List.map_append, List.append_assoc]
    exact (reaches_slotsWritten (q := answerWord r :: q) c (by omega)).trans hslot

/-- WRITE_BYTE and the four ROM commands are one procedure, on the byte each sends (R113, R123 to R126). -/
theorem exec_of_sends {i : Instr} (h : sends i = some v) :
    ∃ c, ∀ s, exec i s = .next (runCommand hw (startWriteByte (.command c) v) s) := by
  cases i with
  | writeByte => cases h; exact ⟨.writeByte, fun _ => rfl⟩
  | skipRom => cases h; exact ⟨.skipRom, fun _ => rfl⟩
  | readRom => cases h; exact ⟨.readRom, fun _ => rfl⟩
  | searchRom => cases h; exact ⟨.searchRom, fun _ => rfl⟩
  | matchRom => cases h; exact ⟨.matchRom, fun _ => rfl⟩
  | _ => cases h

end Sys2Proof.Machine
end

section
/-! The eight slots of a read byte (41_codec.md R114), and the loopback (R118). -/

namespace Sys2Proof.Machine

open Sys2Proof.Claims Sys2Proof.Safety

theorem hw_patRd : hw.patRd = 0xFF#8 := rfl

theorem readsOne_eq_true_iff (r : Capture) : readsOne r = true ↔ r = .captured 0xFF#8 := by simp [readsOne]

theorem hw_decodeBit (r : Capture) : hw.decodeBit r = readsOne r := by
  cases r with
  | captured c => rw [Bool.eq_iff_iff, readsOne_eq_true_iff]; simp [hw, decodeBitBy, hwPatRd]
  | nothing => rfl

/-- What `sh` holds once the first slots of READ_BYTE have brought back `rs`. -/
def shiftedIn (rs : List Capture) : Byte := rs.foldl (fun sh r => shiftIn (hw.decodeBit r) sh) 0#8

theorem shiftedIn_concat (rs : List Capture) (r : Capture) :
    shiftedIn (rs ++ [r]) = shiftIn (hw.decodeBit r) (shiftedIn rs) := by simp [shiftedIn]

/-- The captures fill `sh` from the top, the latest in bit 7. -/
theorem shiftedIn_getLsbD (rs : List Capture) (hrs : rs.length ≤ 8) (k : Nat) (hk : k < rs.length) :
    (shiftedIn rs).getLsbD (8 - rs.length + k) = readsOne rs[k] := by
  induction rs using List.reverseRecOn with
  | nil => cases hk
  | append_singleton rs r ih =>
    rw [List.length_append, List.length_singleton] at hrs hk
    rw [shiftedIn_concat, List.length_append, List.length_singleton]
    obtain hlt | rfl := (Nat.lt_succ_iff.mp hk).lt_or_eq
    · rw [shiftIn_getLsbD_low _ _ _ (by omega), List.getElem_append_left hlt, ← ih (by omega) hlt]
      congr 1
      omega
    · rw [show 8 - (rs.length + 1) + rs.length = 7 by omega, shiftIn_getLsbD_high, hw_decodeBit,
        List.getElem_concat_length rfl]

/-- The registers and the trace of READ_BYTE once its first slots have brought back `rs`. -/
def slotsRead (rs : List Capture) (s : State) : State :=
  { s with
    sh := shiftedIn rs
    bitcnt := BitVec.ofNat 4 rs.length
    trace := s.trace ++ rs.map (.xfer 0xFF#8) }

variable {rs : List Capture} {s : State} {q : List AnswerWord}

theorem startReadByte_eq : startReadByte s = await (.transceiving .readSlot) (slotsRead [] s) := by
  simp [startReadByte, slotsRead, shiftedIn]

/-- The writes of R114 after a slot. -/
theorem slotsRead_concat (r : Capture) :
    slotsRead (rs ++ [r]) s =
      { recordEvent (.xfer (TransceivePoint.readSlot.byteSent hw (slotsRead rs s).sh) r) (slotsRead rs s) with
        sh := shiftIn (hw.decodeBit r) (slotsRead rs s).sh
        bitcnt := (slotsRead rs s).bitcnt + 1#4 } := by
  simp [slotsRead, recordEvent, shiftedIn_concat, BitVec.ofNat_add, TransceivePoint.byteSent, hw_patRd]

/-- Fewer than eight answers: the slots before the outstanding one have been read. -/
theorem reaches_slotsRead (h : rs.length < 8) :
    Reaches hw (rs.map answerWord ++ q) (startReadByte s) q (await (.transceiving .readSlot) (slotsRead rs s)) := by
  induction rs using List.reverseRecOn generalizing q with
  | nil => exact startReadByte_eq ▸ .refl
  | append_singleton rs r ih =>
    rw [List.length_append, List.length_singleton] at h
    have hslot := reaches_transceived (cfg := hw) (s := slotsRead rs s) (q := q) .readSlot r
    rw [transceived, readSlotDone_more _ _ (by simp [slotsRead, recordEvent]; omega)] at hslot
    rw [slotsRead_concat, List.map_append, List.append_assoc]
    exact (ih (q := answerWord r :: q) (by omega)).trans hslot

/-- Eight answers: the byte has been read, and READ_BYTE answers with it. -/
theorem reaches_byteRead (h : rs.length = 8) :
    Reaches hw (rs.map answerWord ++ q) (startReadByte s) q
      (respond .ok ((shiftedIn rs).zeroExtend 64) [] (slotsRead rs s)) := by
  cases rs using List.reverseRecOn with
  | nil => cases h
  | append_singleton rs r =>
    rw [List.length_append, List.length_singleton] at h
    have hslot := reaches_transceived (cfg := hw) (s := slotsRead rs s) (q := q) .readSlot r
    rw [transceived, readSlotDone_last _ _ (by simp [slotsRead, recordEvent]; omega)] at hslot
    rw [slotsRead_concat, shiftedIn_concat, List.map_append, List.append_assoc]
    exact (reaches_slotsRead (q := answerWord r :: q) (by omega)).trans hslot

/-- The events of a byte that has been sent carry its bits, bit 0 first. -/
theorem map_wroteOne_slotEvents (v : Byte) (ws : List Capture) (h : ws.length = 8) :
    (slotEvents v ws).map wroteOne = (List.range 8).map v.getLsbD := by
  refine List.ext_getElem (by simp [slotEvents, h]) fun k _ _ => ?_
  cases hbit : v.getLsbD k <;> simp [slotEvents, wroteOne, slotByte, hbit]

end Sys2Proof.Machine
end

section
/-! The statements of 41_codec.md. -/

namespace Sys2Proof.Claims

open Sys2Proof.Machine

/-- Settles O18: the state after any number of answered slots, and then the return or the failure. -/
theorem byteSendingCommandsComplete : Obligations.ByteSendingCommandsComplete := by
  unfold Obligations.ByteSendingCommandsComplete
  intro i v s rs rest hsends hjob
  obtain ⟨c, hexec⟩ := exec_of_sends hsends
  constructor
  · intro hlen hinbox
    have hreach := reaches_byteWritten (v := v) (s := s) (q := []) (.command c) hlen
    rw [List.append_nil] at hreach
    exact ⟨_, _, exec_of_reaches_respond (.writeByte c v) hexec hjob hinbox hreach⟩
  · intro low hlen hinbox
    rw [brings_append_failure] at hinbox
    have hreach := (reaches_slotsWritten (v := v) (s := s) (.command c) hlen).trans (reaches_failure (q := []) rfl low)
    rw [Job.request, byteSent_slotsWritten (.command c) hlen] at hreach
    exact ⟨_, _, exec_of_reaches_respond (.writeByte c v) hexec hjob hinbox hreach⟩

/-- Settles O19: the state after any number of answered slots, and then the byte or the failure. -/
theorem readByteCompletes : Obligations.ReadByteCompletes := by
  unfold Obligations.ReadByteCompletes
  intro arg s rs rest hjob
  constructor
  · intro hlen hinbox
    have hreach := reaches_byteRead (s := s) (q := []) hlen
    rw [List.append_nil] at hreach
    refine ⟨shiftedIn rs, _, _, fun k hk => ?_, exec_of_reaches_respond .readByte (fun _ => rfl) hjob hinbox hreach⟩
    simpa [hlen] using shiftedIn_getLsbD rs hlen.le k hk
  · intro low hlen hinbox
    rw [brings_append_failure] at hinbox
    have hreach := (reaches_slotsRead (s := s) hlen).trans (reaches_failure (q := []) rfl low)
    exact ⟨_, _, exec_of_reaches_respond .readByte (fun _ => rfl) hjob hinbox hreach⟩

/-- READ_BYTE on captures that give the bits of `v` back answers with `v`. -/
theorem readByte_loopback (arg v : Byte) {s : State} {rs : List Capture} (more : List Input) (hjob : s.job = none)
    (hloop : rs.map readsOne = (List.range 8).map v.getLsbD) :
    ∃ u, exec (.readByte arg) { s with inbox := brings rs ++ more } = .next u ∧
      u.responses = s.responses ++ [{ status := .ok, data := v.zeroExtend 64, beats := [] }] := by
  have hrs : rs.length = 8 := by simpa using congrArg List.length hloop
  obtain ⟨v', _, _, hbits, hread⟩ :=
    (readByteCompletes arg { s with inbox := brings rs ++ more } rs more hjob).1 hrs rfl
  have hv : v' = v := by
    refine BitVec.eq_of_getLsbD_eq fun k hk => ?_
    have hslot := List.getElem_of_eq hloop (i := k) (by simpa [hrs] using hk)
    rw [List.getElem_map, List.getElem_map, List.getElem_range] at hslot
    rw [hbits k (hrs ▸ hk), hslot]
  exact ⟨_, hread, by rw [hv]⟩

/-- Settles O20: both commands carry bit `k` of the byte in slot `k`. -/
theorem loopbackRoundTrip : Obligations.LoopbackRoundTrip := by
  unfold Obligations.LoopbackRoundTrip
  intro v arg s ws rest hjob hws hinbox
  obtain ⟨_, _, hwrite⟩ := (byteSendingCommandsComplete (.writeByte v) v s ws rest rfl hjob).1 hws hinbox
  refine ⟨_, slotEvents v ws, hwrite, rfl, fun rs more hloop => readByte_loopback arg v more hjob ?_⟩
  rw [hloop, map_wroteOne_slotEvents v ws hws]

/-- Settles O34: the two readings of this hardware, by the kinds of capture. -/
theorem captureReadings : Obligations.CaptureReadings := by
  unfold Obligations.CaptureReadings
  have hclass (c : Byte) : hw.classifyReset (.captured c) = if c = 0xF0#8 then .noDevices else .presence := rfl
  refine ⟨fun r => ?_, rfl, fun c => ?_, fun c => ?_⟩
  · rw [hw_decodeBit, readsOne_eq_true_iff]
  · rw [hclass]
    split <;> simp [*]
  · rw [hclass]
    split <;> simp [*]

end Sys2Proof.Claims
end

section
/-! The three requests of a RESET (42_bus_control.md R120, R121), for every caller. -/

namespace Sys2Proof.Machine

open Sys2Proof.Claims Sys2Proof.Safety

variable {s : State} {q : List AnswerWord}

theorem hw_patReset : hw.patReset = 0xF0#8 := rfl

theorem hw_classifyReset_captured (c : Byte) :
    hw.classifyReset (.captured c) = if c = 0xF0#8 then .noDevices else .presence := rfl

/-- An outstanding `Configure` takes an answer that is no failure (R79, R100). -/
theorem reaches_configured {cfg : Config} (p : ConfigPoint) (r : Capture) :
    Reaches cfg (answerWord r :: q) (await (.configuring p) s) q (configured cfg p (configureDone p.operand s)) := by
  have htake := reaches_takeAnswer (cfg := cfg) (s := s) (q := q) (.configuring p) (answerWord r)
  rwa [takeAnswer_await_configuring cfg s p (answerOfWord_answerWord_ne_failure r)] at htake

/-- The state in which a RESET sends its pulse. -/
def resetConfigured (s : State) : State :=
  { s with mode := .resetMode, errCode := .noError, trace := s.trace ++ [.cfg .resetMode] }

/-- The state in which a RESET configures DATA_MODE, its pulse answered with `r`. -/
def resetPulsed (r : Capture) (s : State) : State :=
  { s with mode := .resetMode, errCode := .noError, trace := s.trace ++ [.cfg .resetMode, .xfer 0xF0#8 r] }

/-- What a RESET whose requests were all answered leaves, its pulse answered with `r`. -/
def resetDone (r : Capture) (s : State) : State :=
  { s with
    mode := .dataMode
    errCode := (resetOutcome r).2
    trace := s.trace ++ [.cfg .resetMode, .xfer 0xF0#8 r, .cfg .dataMode] }

theorem reaches_resetConfigured (k : ResetCaller) (r0 : Capture) :
    Reaches hw (answerWord r0 :: q) (startReset k s) q (await (.transceiving (.resetPulse k)) (resetConfigured s)) :=
  reaches_configured (.resetEntry k) r0

theorem reaches_resetPulsed (k : ResetCaller) (r0 r : Capture) :
    Reaches hw (answerWord r0 :: answerWord r :: q) (startReset k s) q
      (await (.configuring (.resetExit k r)) (resetPulsed r s)) := by
  have hpulse := reaches_transceived (cfg := hw) (s := resetConfigured s) (q := q) (.resetPulse k) r
  have hdone : recordEvent (.xfer 0xF0#8 r) (resetConfigured s) = resetPulsed r s := by
    simp [recordEvent, resetConfigured, resetPulsed]
  rw [TransceivePoint.byteSent, hw_patReset, hdone] at hpulse
  exact (reaches_resetConfigured k r0).trans hpulse

/-- The class of a capture has the outcome of R120 and R121, where `err_code` holds the clear at entry. -/
theorem resetClassified_classifyReset (k : ResetCaller) (r : Capture) {t : State} (hclear : t.errCode = .noError) :
    resetClassified k (hw.classifyReset r) t =
      resetReturn k ((resetOutcome r).1 == .ok) { t with errCode := (resetOutcome r).2 } := by
  cases r with
  | nothing => rfl
  | captured c =>
    rw [hw_classifyReset_captured, resetOutcome]
    split
    · rfl
    · rw [← hclear]
      rfl

theorem boolStatus_resetOutcome (r : Capture) : boolStatus ((resetOutcome r).1 == .ok) = (resetOutcome r).1 := by
  cases r with
  | nothing => rfl
  | captured c => by_cases hc : c = 0xF0#8 <;> simp [resetOutcome, boolStatus, hc]

/-- Three answers: the RESET returns to its caller. -/
theorem reaches_resetReturn (k : ResetCaller) (r0 r r2 : Capture) :
    Reaches hw (answerWord r0 :: answerWord r :: answerWord r2 :: q) (startReset k s) q
      (resetReturn k ((resetOutcome r).1 == .ok) (resetDone r s)) := by
  have hexit := reaches_configured (cfg := hw) (s := resetPulsed r s) (q := q) (.resetExit k r) r2
  rw [configured, resetClassified_classifyReset k r rfl] at hexit
  have hdone : { configureDone .dataMode (resetPulsed r s) with errCode := (resetOutcome r).2 } = resetDone r s := by
    simp [configureDone, recordEvent, Mode.ofConfig, resetPulsed, resetDone]
  exact hdone ▸ (reaches_resetPulsed k r0 r).trans hexit

end Sys2Proof.Machine
end

section
/-! The statements of 42_bus_control.md. -/

namespace Sys2Proof.Claims

open Sys2Proof.Machine

/-- Settles O17: the state at each of the three requests, and then the failure there or the return. -/
theorem resetCompletes : Obligations.ResetCompletes := by
  unfold Obligations.ResetCompletes
  intro arg s r0 r r2 low rest hjob
  have hexec {ws : List AnswerWord} {st : Status} {t : State} (hinbox : s.inbox = answers ws ++ rest)
      (hreach : Reaches hw ws (startReset .command s) [] (respond st 0#64 [] t)) :=
    exec_of_reaches_respond (i := .reset arg) .reset (fun _ => rfl) hjob hinbox hreach
  refine ⟨fun hinbox => ?_, fun hinbox => ?_, fun hinbox => ?_, fun hinbox => ?_⟩
  · have hreach := reaches_resetReturn (s := s) (q := []) .command r0 r r2
    rw [resetReturn, boolStatus_resetOutcome] at hreach
    exact hexec hinbox hreach
  · exact hexec hinbox (reaches_failure rfl low)
  · have hfail := (reaches_resetConfigured (s := s) .command r0).trans (reaches_failure (q := []) rfl low)
    simpa [requestFailed, recordEvent, resetConfigured, Job.request, TransceivePoint.byteSent, hw_patReset, bare] using
      hexec hinbox hfail
  · have hfail := (reaches_resetPulsed (s := s) .command r0 r).trans (reaches_failure (q := []) rfl low)
    simpa [requestFailed, recordEvent, resetPulsed, Job.request, ConfigPoint.operand, bare] using hexec hinbox hfail

end Sys2Proof.Claims
end

section
/-! A search pass, one answer at a time: an answered row, the direction of a wire position, the end of a pass, the end of an
enumeration (43_rom_search.md R142 to R149). -/

namespace Sys2Proof.Machine

open Sys2Proof.Claims

variable (s : State)

@[simp] theorem readsOne_nothing : readsOne .nothing = false := rfl

@[simp] theorem readsOne_captured_allOnes : readsOne (.captured 0xFF#8) = true := rfl

/-- An answer row that brings back `r`, taken by an outstanding `Transceive` (R101). -/
theorem exec_answerRow {s : State} {p : TransceivePoint} (r : Capture) (hjob : s.job = some (.transceiving p)) :
    exec (answerRow r) s = .next (transceived hw p r (recordEvent (.xfer (p.byteSent hw s.sh) r) s)) := by
  cases r with
  | captured c => exact congrArg _ (takeAnswer_transceiving hw s (.captured c) p hjob)
  | nothing => exact congrArg _ (takeAnswer_transceiving hw s .nothingOrDone p hjob)

/-- Both commands end an enumeration with their response and nothing else (R146, R152). -/
theorem endEnumeration_eq_answered (o : Owner) (st : Status) :
    endEnumeration o st s = answered (enumerationResponse o st s.reg) s := by
  cases o <;> rfl

/-! ### The direction of a wire position -/

section Direction

variable (ld : Option WirePos) (id : DeviceId) (k : Nat)

theorem searchDirection_agreement {a b : Bool} (h : a ≠ b) : searchDirection ld id k a b = a :=
  if_pos (bne_iff_ne.mpr h)

theorem searchDirection_discrepancy : searchDirection ld id k false false = discrepancyDirection ld id k := rfl

theorem discrepancyDirection_none : discrepancyDirection none id k = false := rfl

theorem discrepancyDirection_before {l : WirePos} (h : k < l.toNat) :
    discrepancyDirection (some l) id k = DeviceId.wireBit id k := if_pos h

theorem discrepancyDirection_at {l : WirePos} (h : k = l.toNat) : discrepancyDirection (some l) id k = true := by
  simp [discrepancyDirection, h]

theorem discrepancyDirection_after {l : WirePos} (h : l.toNat < k) : discrepancyDirection (some l) id k = false := by
  simp [discrepancyDirection, h.not_gt, h.ne']

end Direction

/-! ### The end of a pass -/

section PassEnd

variable (cfg : Config) (o : Owner)

theorem passComplete_overflow (h : s.curId ∉ s.reg) (hfull : cfg.regCapacity ≤ s.reg.length) :
    passComplete cfg o s = answered (enumerationResponse o .ovf s.reg) s :=
  (passComplete_full cfg s o h hfull).trans (endEnumeration_eq_answered s o .ovf)

/-- The registry after a pass that did not overflow it: a new identifier at the end, a known one not again (R147). -/
def storedRegistry : List DeviceId := if s.curId ∈ s.reg then s.reg else s.reg ++ [s.curId]

variable (hstore : s.curId ∈ s.reg ∨ s.reg.length < cfg.regCapacity)

include hstore

theorem passComplete_stored : passComplete cfg o s = nextPass o { s with reg := storedRegistry s } := by
  by_cases hmem : s.curId ∈ s.reg
  · rw [passComplete_known cfg s o hmem, storedRegistry, if_pos hmem]
  · rw [passComplete_new cfg s o hmem (hstore.resolve_left hmem), storedRegistry, if_neg hmem, Registry.append]

theorem passComplete_end (hlz : s.lz = none) :
    passComplete cfg o s =
      answered (enumerationResponse o .ok (storedRegistry s)) { s with reg := storedRegistry s } := by
  rw [passComplete_stored s cfg o hstore, nextPass_end { s with reg := storedRegistry s } o hlz, endEnumeration_eq_answered]

theorem passComplete_more {p : WirePos} (hlz : s.lz = some p) :
    passComplete cfg o s = startPass o { s with reg := storedRegistry s, ld := some p } := by
  rw [passComplete_stored s cfg o hstore, nextPass_more { s with reg := storedRegistry s } o p hlz]

end PassEnd

end Sys2Proof.Machine
end

section
/-! The answers of a whole search pass (43_rom_search.md R141), for both commands. -/

namespace Sys2Proof.Machine

open Sys2Proof.Claims Sys2Proof.Safety

/-! ### One wire position -/

section Position

variable (s : State) (p : PositionAnswers)

/-- The direction taken at the current wire position, from its two reads. -/
def takenDirection : Bool := searchDirection s.ld s.curId s.pos.toNat (readsOne p.first) (readsOne p.second)

/-- The state in which a wire position writes its direction back (R142 to R144). -/
def positionChosen : State :=
  { s with
    lz := bif !readsOne p.first && !readsOne p.second && !takenDirection s p then some (s.pos.setWidth 6) else s.lz
    curId := DeviceId.withBit s.curId s.pos.toNat (takenDirection s p)
    trace := s.trace ++ [.xfer 0xFF#8 p.first, .xfer 0xFF#8 p.second] }

/-- What a wire position leaves whose three slots were answered (R141). -/
def positionTaken : State :=
  { positionChosen s p with
    pos := s.pos + 1#7
    trace := (positionChosen s p).trace ++ [.xfer (slotByte (takenDirection s p)) p.writeBack] }

end Position

/-- The words that answer the three slots of each wire position. -/
def positionWords (ps : List PositionAnswers) : List AnswerWord :=
  (ps.flatMap fun p => [p.first, p.second, p.writeBack]).map answerWord

theorem positionWords_cons (p : PositionAnswers) (ps : List PositionAnswers) :
    positionWords (p :: ps) = positionWords [p] ++ positionWords ps := by simp [positionWords]

/-- The readback (1,1) of R145. -/
def isAnomaly (p : PositionAnswers) : Bool := readsOne p.first && readsOne p.second

section Answered

variable {s : State} {q : List AnswerWord} (o : Owner)

/-- The two reads of a wire position. -/
theorem reaches_positionChosen {p : PositionAnswers} (h : isAnomaly p = false) :
    Reaches hw (answerWord p.first :: answerWord p.second :: q) (startPosition o s) q
      (await (.transceiving (.search o (.writeBack (takenDirection s p)))) (positionChosen s p)) := by
  have hchosen : positionRead o (readsOne p.first) (readsOne p.second)
      (recordEvent (.xfer 0xFF#8 p.second) (recordEvent (.xfer 0xFF#8 p.first) s)) =
      await (.transceiving (.search o (.writeBack (takenDirection s p)))) (positionChosen s p) := by
    rw [positionRead_direction _ o _ _ h]
    simp [recordEvent, positionChosen, takenDirection]
  have hfirst := reaches_transceived (cfg := hw) (s := s) (q := answerWord p.second :: q) (.search o .firstRead) p.first
  have hsecond := reaches_transceived (cfg := hw) (s := recordEvent (.xfer 0xFF#8 p.first) s) (q := q)
    (.search o (.secondRead (readsOne p.first))) p.second
  rw [transceived, hw_decodeBit] at hfirst
  rw [transceived, hw_decodeBit] at hsecond
  exact hchosen ▸ hfirst.trans hsecond

/-- The three slots of a wire position, and what follows: the next position, or the end of the pass. -/
theorem reaches_positionTaken {p : PositionAnswers} (h : isAnomaly p = false) :
    Reaches hw (positionWords [p] ++ q) (startPosition o s) q
      (if (s.pos + 1#7).toNat < 64 then startPosition o (positionTaken s p)
        else passComplete hw o (positionTaken s p)) :=
  (reaches_positionChosen o h).trans
    (reaches_transceived (s := positionChosen s p) (.search o (.writeBack (takenDirection s p))) p.writeBack)

/-! ### A whole pass -/

/-- All the positions that are left of a pass. -/
theorem reaches_positionsTaken {ps : List PositionAnswers} (hps : ps ≠ []) :
    ∀ {s : State}, s.pos.toNat + ps.length = 64 → (∀ p ∈ ps, isAnomaly p = false) →
      Reaches hw (positionWords ps ++ q) (startPosition o s) q (passComplete hw o (ps.foldl positionTaken s)) := by
  induction ps with
  | nil => exact absurd rfl hps
  | cons p ps ih =>
    intro s hcount hreads
    have hpos : (s.pos + 1#7).toNat = 64 - ps.length := by simp at hcount ⊢; omega
    have hone := reaches_positionTaken (s := s) (q := positionWords ps ++ q) o (hreads p List.mem_cons_self)
    rw [positionWords_cons, List.append_assoc]
    by_cases hlast : ps = []
    · subst hlast
      rwa [if_neg (by simp [hpos])] at hone
    · have hlen := List.length_pos_iff.mpr hlast
      rw [if_pos (by omega)] at hone
      refine hone.trans (ih hlast ?_ fun p' hp' => hreads p' (List.mem_cons_of_mem p hp'))
      simp only [positionTaken, List.length_cons] at hcount ⊢
      omega

/-- The state in which a pass reads its first wire position, its reset pulse answered with `r` and the slots of its Search
ROM byte with `rom`. -/
def passOpened (r : Capture) (rom : List Capture) (s : State) : State :=
  { slotsWritten romSearchByte rom (resetDone r s) with lz := none, pos := 0#7 }

variable (r0 r2 : Capture) {r : Capture} {rom : List Capture}

/-- The RESET of a pass and its Search ROM byte. -/
theorem reaches_passOpened (hpresence : (resetOutcome r).1 = .ok) (hrom : rom.length = 8) :
    Reaches hw (answerWord r0 :: answerWord r :: answerWord r2 :: (rom.map answerWord ++ q)) (startPass o s) q
      (startPosition o (passOpened r rom s)) := by
  have hreset := reaches_resetReturn (s := s) (q := rom.map answerWord ++ q) (.pass o) r0 r r2
  rw [hpresence] at hreset
  exact hreset.trans (reaches_byteWritten (.pass o) hrom)

/-- Every answer of a pass without an anomaly: the pass is completed. -/
theorem reaches_passComplete {ps : List PositionAnswers} (hpresence : (resetOutcome r).1 = .ok) (hrom : rom.length = 8)
    (hps : ps.length = 64) (hreads : ∀ p ∈ ps, isAnomaly p = false) :
    Reaches hw ((passCaptures r0 r r2 rom ps).map answerWord ++ q) (startPass o s) q
      (passComplete hw o (ps.foldl positionTaken (passOpened r rom s))) := by
  have hopen := reaches_passOpened (s := s) (q := positionWords ps ++ q) o r0 r2 hpresence hrom
  have hnonempty : ps ≠ [] := List.ne_nil_of_length_pos (by omega)
  have hpass := hopen.trans (reaches_positionsTaken o hnonempty (by simp [passOpened, hps]) hreads)
  simpa [passCaptures, positionWords] using hpass

end Answered

end Sys2Proof.Machine
end

section
/-! Answers on which an enumeration goes on for ever: every pass finds the identifier 0, with one unresolved discrepancy, at
another position than the pass before (43_rom_search.md R156). -/

namespace Sys2Proof.Machine

open Sys2Proof.Claims Sys2Proof.Safety

/-- What an enumeration holds, between any two requests of its passes, that has found the identifier 0 and no other. -/
structure OnlyZeroFound (ld : Option WirePos) (rs : List Response) (t : State) : Prop where
  ld : t.ld = ld
  curId : t.curId = 0#64
  reg : t.reg = [] ∨ t.reg = [0#64]
  responses : t.responses = rs

/-- The answers at wire position `k`: agreement on 0, or, at `p`, a discrepancy. -/
def zeroAnswers (p : WirePos) (k : Nat) : PositionAnswers :=
  ⟨.nothing, if k = p.toNat then .nothing else .captured 0xFF#8, .nothing⟩

/-- The captures of a pass whose one discrepancy is at `p`. -/
def zeroPass (p : WirePos) : List Capture :=
  passCaptures .nothing (.captured 0#8) .nothing (List.replicate 8 .nothing) ((List.range 64).map (zeroAnswers p))

/-- The captures of `n` passes, no two after each other with the discrepancy at the same position. -/
def zeroPasses : Nat → List Capture
  | 0 => []
  | n + 1 => zeroPass (BitVec.ofNat 6 (n + 1)) ++ zeroPasses n

theorem le_length_zeroPasses (n : Nat) : n ≤ (zeroPasses n).length := by
  induction n with
  | zero => exact Nat.zero_le _
  | succ n ih => simp [zeroPasses, zeroPass, passCaptures]; omega

theorem isAnomaly_zeroAnswers (p : WirePos) (k : Nat) : isAnomaly (zeroAnswers p k) = false := rfl

variable {l : Option WirePos} {p : WirePos} {rs : List Response} {s t : State}

/-- A direction other than 0 is taken only at a discrepancy at `ld`. -/
theorem takenDirection_zeroAnswers (h : OnlyZeroFound l rs t) (hl : l ≠ some p) :
    takenDirection t (zeroAnswers p t.pos.toNat) = false := by
  rw [takenDirection, h.ld, h.curId]
  by_cases hk : t.pos.toNat = p.toNat
  · have hreads : readsOne (zeroAnswers p t.pos.toNat).second = false := by simp [zeroAnswers, hk]
    rw [hreads]
    cases l with
    | none => rfl
    | some l =>
      have hne : t.pos.toNat ≠ l.toNat := fun h => hl (congrArg some (BitVec.eq_of_toNat_eq (h.symm.trans hk)))
      obtain hlt | hgt := hne.lt_or_gt
      · exact (discrepancyDirection_before _ _ hlt).trans BitVec.getLsbD_zero
      · exact discrepancyDirection_after _ _ hgt
  · exact searchDirection_agreement _ _ _ (by simp [zeroAnswers, hk])

/-- One position of such a pass. -/
theorem OnlyZeroFound.afterPosition (h : OnlyZeroFound l rs t) (hl : l ≠ some p) :
    OnlyZeroFound l rs (positionTaken t (zeroAnswers p t.pos.toNat)) where
  ld := h.ld
  curId := by simp [positionTaken, positionChosen, takenDirection_zeroAnswers h hl, DeviceId.withBit, h.curId]
  reg := h.reg
  responses := h.responses

theorem positionTaken_zeroAnswers_lz (h : OnlyZeroFound l rs t) (hl : l ≠ some p) :
    (positionTaken t (zeroAnswers p t.pos.toNat)).lz = if t.pos.toNat = p.toNat then some p else t.lz := by
  simp only [positionTaken, positionChosen, takenDirection_zeroAnswers h hl]
  by_cases hk : t.pos.toNat = p.toNat
  · have hp : t.pos.setWidth 6 = p := by rw [← BitVec.ofNat_toNat, hk, BitVec.ofNat_toNat, BitVec.setWidth_eq]
    simp [zeroAnswers, hk, hp]
  · simp [zeroAnswers, hk]

/-- The first `n` positions of such a pass. -/
theorem OnlyZeroFound.afterPositions (h : OnlyZeroFound l rs s) (hl : l ≠ some p) (hpos : s.pos = 0#7)
    (hlz : s.lz = none) (n : Nat) (hn : n ≤ 64) :
    let t := ((List.range n).map (zeroAnswers p)).foldl positionTaken s
    OnlyZeroFound l rs t ∧ t.pos.toNat = n ∧ t.lz = if p.toNat < n then some p else none := by
  induction n with
  | zero => exact ⟨h, by simp [hpos], by simpa using hlz⟩
  | succ n ih =>
    obtain ⟨hzero, hcount, hrecord⟩ := ih (by omega)
    rw [List.range_succ, List.map_append, List.foldl_append]
    generalize ((List.range n).map (zeroAnswers p)).foldl positionTaken s = t at *
    subst hcount
    refine ⟨hzero.afterPosition hl, ?_, ?_⟩
    · simp [positionTaken]
      omega
    · refine (positionTaken_zeroAnswers_lz hzero hl).trans ?_
      rw [hrecord]
      by_cases hk : t.pos.toNat = p.toNat
      · simp [hk]
      · have hlt : p.toNat < t.pos.toNat + 1 ↔ p.toNat < t.pos.toNat := by omega
        simp only [if_neg hk, hlt]

/-- The identifier 0 is in the registry or fits in. -/
theorem OnlyZeroFound.fits (h : OnlyZeroFound l rs t) : t.curId ∈ t.reg ∨ t.reg.length < hw.regCapacity := by
  obtain hreg | hreg := h.reg
  · exact .inr (by simp [hreg, hw, Config.capacity])
  · exact .inl (by simp [hreg, h.curId])

/-- What the end of such a pass hands to the next one. -/
theorem OnlyZeroFound.stored (h : OnlyZeroFound l rs t) (p : WirePos) :
    OnlyZeroFound (some p) rs { t with reg := storedRegistry t, ld := some p } where
  ld := rfl
  curId := h.curId
  reg := .inr (by obtain hreg | hreg := h.reg <;> simp [storedRegistry, h.curId, hreg])
  responses := h.responses

/-- One such pass: the discrepancy it left unresolved is where the next one would take 1. -/
theorem OnlyZeroFound.afterPass (o : Owner) (q : List AnswerWord) (h : OnlyZeroFound l rs s) (hl : l ≠ some p) :
    ∃ t, OnlyZeroFound (some p) rs t ∧
      Reaches hw ((zeroPass p).map answerWord ++ q) (startPass o s) q (startPass o t) := by
  have hpass := reaches_passComplete (s := s) (q := q) (r := .captured 0#8) (rom := List.replicate 8 .nothing)
    (ps := (List.range 64).map (zeroAnswers p)) o .nothing .nothing rfl rfl (by simp) (by simp [isAnomaly_zeroAnswers])
  have hopened : OnlyZeroFound l rs (passOpened (.captured 0#8) (List.replicate 8 .nothing) s) :=
    ⟨h.ld, h.curId, h.reg, h.responses⟩
  obtain ⟨hzero, -, hlz⟩ := hopened.afterPositions hl rfl rfl 64 le_rfl
  generalize ((List.range 64).map (zeroAnswers p)).foldl positionTaken _ = t at *
  rw [if_pos p.isLt] at hlz
  rw [passComplete_more t hw o hzero.fits hlz] at hpass
  exact ⟨_, hzero.stored p, hpass⟩

/-- Any number of such passes. -/
theorem OnlyZeroFound.afterPasses (o : Owner) (n : Nat) :
    ∀ {l : Option WirePos} {s : State}, OnlyZeroFound l rs s → l ≠ some (BitVec.ofNat 6 n) →
      ∃ l' t, OnlyZeroFound l' rs t ∧ Reaches hw ((zeroPasses n).map answerWord) (startPass o s) [] (startPass o t) := by
  induction n with
  | zero => exact fun h _ => ⟨_, _, h, .refl⟩
  | succ n ih =>
    intro l s h hl
    obtain ⟨t, ht, hone⟩ := h.afterPass o ((zeroPasses n).map answerWord) hl
    have hnext : some (BitVec.ofNat 6 (n + 1)) ≠ some (BitVec.ofNat 6 n) := by simp [BitVec.ofNat_add]
    obtain ⟨l', u, hu, hrest⟩ := ih ht hnext
    rw [zeroPasses, List.map_append]
    exact ⟨l', u, hu, hone.trans hrest⟩

end Sys2Proof.Machine
end

section
/-! The statements of 43_rom_search.md. -/

namespace Sys2Proof.Claims

open Sys2Proof.Machine Sys2Proof.Safety

/-- Settles O35: the readback that is not (1,1) makes one update, and the direction in it is decided by `ld` at a discrepancy. -/
theorem searchDirection : Obligations.SearchDirection := by
  unfold Obligations.SearchDirection
  intro s o a r hjob hpos hab
  have hanomaly : (a && readsOne r) = false := by simpa using hab
  refine ⟨Machine.searchDirection s.ld s.curId s.pos.toNat a (readsOne r), _, ?one, ?zero, ?first, ?later,
    fun k hk => DeviceId.wireBit_withBit s.curId s.pos.toNat _ k hpos hk, ?exec⟩
  case one =>
    rintro rfl
    exact searchDirection_agreement _ _ _ (by simpa using hanomaly.symm)
  case zero =>
    rintro rfl hr
    exact searchDirection_agreement _ _ _ (by simp [hr])
  case first =>
    rintro rfl hr hld
    rw [hr, hld, searchDirection_discrepancy, discrepancyDirection_none]
  case later =>
    rintro l rfl hr hld
    rw [hr, hld, searchDirection_discrepancy]
    exact ⟨discrepancyDirection_before _ _, discrepancyDirection_at _ _, discrepancyDirection_after _ _⟩
  case exec =>
    rw [exec_answerRow r hjob, transceived, hw_decodeBit, positionRead_direction _ o a _ hanomaly]
    simp [await, recordEvent, TransceivePoint.byteSent, hw_patRd, ← BitVec.ofNat_toNat, and_assoc, cond_eq_ite]

/-- Settles O36: the anomaly is the end of the enumeration, with the error recorded. -/
theorem searchAnomaly : Obligations.SearchAnomaly := by
  unfold Obligations.SearchAnomaly
  intro s o hjob
  have hexec := exec_answerRow (.captured 0xFF#8) hjob
  rw [transceived, hw_decodeBit, readsOne_captured_allOnes, positionRead_anomaly, Machine.searchAnomaly,
    endEnumeration_eq_answered] at hexec
  exact ⟨_, hexec, rfl⟩

/-- Settles O37: the end of a pass by its three tests, in their order. -/
theorem passCompletes : Obligations.PassCompletes := by
  unfold Obligations.PassCompletes
  intro s o d r hjob hpos reg' after
  have hexec : exec (answerRow r) s = .next (passComplete hw o after) := by
    rw [exec_answerRow r hjob, transceived, positionDone_last hw _ o (by simp [recordEvent, hpos])]
    simp [recordEvent, hpos, TransceivePoint.byteSent, hw_writePattern, after]
  refine ⟨fun hnew hfull => ?_, fun hstore hend => ?_, fun p hstore hmore => ?_⟩
  · exact ⟨_, hexec.trans (congrArg _ (passComplete_overflow after hw o hnew hfull.ge)), rfl⟩
  · exact ⟨_, hexec.trans (congrArg _ (passComplete_end after hw o hstore hend)), rfl⟩
  · exact hexec.trans (congrArg _ (passComplete_more after hw o hstore hmore))

/-- Settles O38: `n` passes that find the identifier 0 are answered by at least `n` words, and then the next pass waits. -/
theorem enumerationNeedNotEnd : Obligations.EnumerationNeedNotEnd := by
  unfold Obligations.EnumerationNeedNotEnd
  intro n
  refine ⟨(zeroPasses n).map answerWord, by simpa using le_length_zeroPasses n, fun arg s hjob hinbox => ?_⟩
  have hstart : OnlyZeroFound none s.responses (clearForEnumeration s) := ⟨rfl, rfl, .inl rfl, rfl⟩
  obtain ⟨l, t, ht, hreach⟩ := hstart.afterPasses .discover n nofun
  have hexec := exec_of_reaches (i := .discover arg) .discover (fun _ => rfl) hjob (hinbox.trans (List.append_nil _).symm)
    hreach
  refine ⟨_, hexec, rfl, ?_, ht.responses⟩
  obtain hreg | hreg := ht.reg <;> simp [answers, startPass, startReset, hreg]

end Sys2Proof.Claims
end

section
/-! What a step does by the channel of its word: which rows a channel carries, and what a busy engine does with the rows
that are no answers. -/

namespace Sys2Proof.Machine

open Sys2Proof.Laws.Channel

theorem channelFormat_encode (i : Instr) : channelFormat (encode i) = formatOf i := by cases i <;> rfl

theorem formatOf_decodeHost (w : CommandWord) : formatOf (decodeHost w) = .hc := by
  rw [← channelFormat_encode, encode_decodeHost, channelFormat]

theorem formatOf_decodeAnswer (w : AnswerWord) : formatOf (decodeAnswer w) = .xa := by
  unfold decodeAnswer
  dsimp only
  split_ifs <;> rfl

theorem formatOf_decodeCall {use : SlotUse} {w : RequestWord} {i : Instr} (h : decodeCall use w = .ok i) :
    formatOf i = .xq := by
  cases use with
  | plain =>
    simp only [decodeCall, decodeRequest] at h
    split_ifs at h <;> cases h <;> rfl
  | resetPulse | writeBit | readBit =>
    simp only [decodeCall] at h
    split_ifs at h <;> cases h <;> rfl

theorem formatOf_decodeRomByte {b : Byte} {i : Instr} (h : decodeRomByte b = .ok i) : formatOf i = .romcmd := by
  unfold decodeRomByte at h
  split_ifs at h <;> cases h <;> rfl

/-- A word is read as a row of the format that its channel carries. -/
theorem formatOf_decode {p : PortWord} {i : Instr} (h : decode p = .ok i) : formatOf i = channelFormat p := by
  cases p with
  | host w => cases h; exact formatOf_decodeHost w
  | call use w => exact formatOf_decodeCall h
  | answer w => cases h; exact formatOf_decodeAnswer w
  | romByte b => exact formatOf_decodeRomByte h

/-- A busy engine rejects a command word (10_state.md R31, R176) and turns an internal procedure away (log 5). -/
theorem exec_busy {i : Instr} {s : State} (hi : formatOf i ≠ .xa) (hbusy : s.busy = true) :
    exec i s = .next s ∨ exec i s = .next (rejectWord s) := by
  cases i with
  | xaCaptured | xaNothingOrDone | xaFailure | xaReserved => exact absurd rfl hi
  | configure | transceive | resetPulse | writeBit1 | writeBit0 | readBit | romSkip | romRead | romMatch | romSearch =>
    exact .inl (congrArg _ (runAlone_busy hw s _ hbusy))
  | reserved00 | reserved0E | reserved0F | reserved10to1F | reserved20to3F | reserved40to7F | reserved80toFF =>
    exact .inr rfl
  | _ => exact .inr (congrArg _ (runCommand_busy hw s _ hbusy))

end Sys2Proof.Machine
end

section
/-! Which positions and which rows can write the registry and `err_code` (44_registry.md R165): a register keeps its value
while the engine stays outside the positions that write it. -/

namespace Sys2Proof.Machine

open Sys2Proof.Safety Sys2Proof.Claims

variable {α : Type} {positions : Job → Bool} {f : State → α} (cfg : Config) {s t u : State}

/-- `t` has the `f` of `s`, and the engine in `t` is at none of the positions. -/
structure Keeps (positions : Job → Bool) (f : State → α) (s t : State) : Prop where
  kept : f t = f s
  outside : ∀ j, t.job = some j → positions j = false

theorem Keeps.ended (hjob : t.job = none) (h : f t = f s) : Keeps positions f s t := ⟨h, by simp [hjob]⟩

theorem Keeps.waiting {j : Job} (hjob : t.job = some j) (hj : positions j = false) (h : f t = f s) :
    Keeps positions f s t := by
  refine ⟨h, fun k hk => ?_⟩
  cases hjob.symm.trans hk
  exact hj

/-- What was written before, `f` apart, makes no difference. -/
theorem Keeps.of_eq (h : Keeps positions f t u) (hf : f t = f s) : Keeps positions f s u := ⟨h.kept.trans hf, h.outside⟩

/-- What every answer taken outside the positions keeps, a command that starts outside them keeps. -/
theorem Keeps.drain (hinbox : ∀ s q, f { s with inbox := q } = f s)
    (hanswer : ∀ s a j, s.job = some j → positions j = false → Keeps positions f s (takeAnswer cfg a s))
    (h : Keeps positions f s t) : Keeps positions f s (drain cfg t) := by
  refine drainQueue_induct cfg (P := Keeps positions f s) (fun t a hbusy ht => ?_)
    (fun t q ht => ⟨(hinbox t q).trans ht.kept, ht.outside⟩) t.inbox t h
  obtain ⟨j, hj⟩ := (busy_eq_true_iff t).mp hbusy
  exact (hanswer t a j hj (ht.outside j hj)).of_eq ht.kept

theorem raiseTransportError_reg (j : Job) (s : State) : (raiseTransportError cfg j s).reg = s.reg := by
  unfold raiseTransportError
  dsimp only
  split <;> simp

theorem raiseTransportError_errCode (j : Job) (s : State) : (raiseTransportError cfg j s).errCode = s.errCode := by
  unfold raiseTransportError
  dsimp only
  split <;> simp

/-! ### Outside every RESET and every enumeration -/

/-- The registry and the error record. -/
def records (s : State) : List DeviceId × ErrCode := (s.reg, s.errCode)

/-- Nothing was written to the registry or to `err_code`, and the engine is in no command that resets the bus. -/
abbrev KeepsRecords : State → State → Prop := Keeps recordsErrors records

theorem writeReturn_keepsRecords {k : WriteCaller} (hk : recordsErrors (.transceiving (.writeSlot k)) = false) (s : State) :
    KeepsRecords s (writeReturn k s) := by
  cases k with
  | command | alone => exact .ended rfl rfl
  | pass => cases hk

theorem writeSlotDone_keepsRecords {k : WriteCaller} (hk : recordsErrors (.transceiving (.writeSlot k)) = false)
    (s : State) : KeepsRecords s (writeSlotDone k s) := by
  by_cases hmore : (s.bitcnt + 1#4).toNat < 8
  · rw [writeSlotDone_more s k hmore]
    exact .waiting rfl hk rfl
  · rw [writeSlotDone_last s k hmore]
    exact (writeReturn_keepsRecords hk _).of_eq rfl

theorem readSlotDone_keepsRecords (v : Bool) (s : State) : KeepsRecords s (readSlotDone v s) := by
  by_cases hmore : (s.bitcnt + 1#4).toNat < 8
  · rw [readSlotDone_more s v hmore]
    exact .waiting rfl rfl rfl
  · rw [readSlotDone_last s v hmore]
    exact .ended rfl rfl

theorem takeAnswer_keepsRecords (s : State) (a : Answer) (j : Job) (hjob : s.job = some j) (hj : recordsErrors j = false) :
    KeepsRecords s (takeAnswer cfg a s) := by
  obtain ⟨hnone, -⟩ | ⟨_, -, -, heq⟩ | ⟨p, hp, -, heq⟩ | ⟨p, r, hp, -, heq⟩ := takeAnswer_cases cfg s a
  · cases hjob.symm.trans hnone
  · rw [heq]
    exact .ended (raiseTransportError_job ..)
      (Prod.ext (raiseTransportError_reg ..) (raiseTransportError_errCode ..))
  · cases hjob.symm.trans hp
    rw [heq]
    cases p with
    | alone => exact .ended rfl rfl
    | resetEntry | resetExit => cases hj
  · cases hjob.symm.trans hp
    rw [heq]
    cases p with
    | writeSlot k => exact (writeSlotDone_keepsRecords hj _).of_eq rfl
    | readSlot => exact (readSlotDone_keepsRecords ..).of_eq rfl
    | alone => exact .ended rfl rfl
    | resetPulse | search => cases hj

theorem KeepsRecords.drain (h : KeepsRecords s t) : KeepsRecords s (drain cfg t) :=
  Keeps.drain cfg (fun _ _ => rfl) (takeAnswer_keepsRecords cfg) h

theorem respondEntry_keepsRecords (index : Nat) (s : State) : KeepsRecords s (respondEntry index s) := by
  rw [respondEntry_eq]
  exact .ended rfl rfl

/-! ### Outside every enumeration -/

/-- Nothing was written to the registry, and the engine is in no enumeration. -/
abbrev KeepsRegistry : State → State → Prop := Keeps enumerates State.reg

/-- The positions outside an enumeration are those outside every RESET, and the three of the RESET command. -/
theorem enumerates_eq_false_cases {j : Job} (h : enumerates j = false) :
    recordsErrors j = false ∨ j = .configuring (.resetEntry .command) ∨
      (∃ r, j = .configuring (.resetExit .command r)) ∨ j = .transceiving (.resetPulse .command) := by
  cases j with
  | configuring p =>
    cases p with
    | resetEntry k =>
      cases k with
      | command => exact .inr (.inl rfl)
      | init | pass => cases h
    | resetExit k r =>
      cases k with
      | command => exact .inr (.inr (.inl ⟨r, rfl⟩))
      | init | pass => cases h
    | alone => exact .inl rfl
  | transceiving p =>
    cases p with
    | resetPulse k =>
      cases k with
      | command => exact .inr (.inr (.inr rfl))
      | init | pass => cases h
    | writeSlot | readSlot | search | alone => exact .inl h

theorem enumerates_of_recordsErrors {j : Job} (h : recordsErrors j = false) : enumerates j = false := by
  cases j with
  | configuring p =>
    cases p with
    | resetEntry | resetExit => cases h
    | alone => rfl
  | transceiving p =>
    cases p with
    | resetPulse => cases h
    | writeSlot | readSlot | search | alone => exact h

theorem KeepsRecords.keepsRegistry (h : KeepsRecords s t) : KeepsRegistry s t :=
  ⟨congrArg Prod.fst h.kept, fun j hj => enumerates_of_recordsErrors (h.outside j hj)⟩

theorem resetClassified_command_keepsRegistry (c : ResetClass) (s : State) :
    KeepsRegistry s (resetClassified .command c s) := by
  cases c <;> exact .ended rfl rfl

theorem takeAnswer_keepsRegistry (s : State) (a : Answer) (j : Job) (hjob : s.job = some j) (hj : enumerates j = false) :
    KeepsRegistry s (takeAnswer cfg a s) := by
  obtain hquiet | hreset := enumerates_eq_false_cases hj
  · exact (takeAnswer_keepsRecords cfg s a j hjob hquiet).keepsRegistry
  obtain ⟨hnone, -⟩ | ⟨_, -, -, heq⟩ | ⟨p, hp, -, heq⟩ | ⟨p, r, hp, -, heq⟩ := takeAnswer_cases cfg s a
  · cases hjob.symm.trans hnone
  · rw [heq]
    exact .ended (raiseTransportError_job ..) (raiseTransportError_reg ..)
  · cases hjob.symm.trans hp
    rw [heq]
    obtain ⟨⟨⟩⟩ | ⟨r, ⟨⟩⟩ | ⟨⟨⟩⟩ := hreset
    · exact .waiting rfl rfl rfl
    · exact (resetClassified_command_keepsRegistry ..).of_eq rfl
  · cases hjob.symm.trans hp
    rw [heq]
    obtain ⟨⟨⟩⟩ | ⟨_, ⟨⟩⟩ | ⟨⟨⟩⟩ := hreset
    exact .waiting rfl rfl rfl

theorem KeepsRegistry.drain (h : KeepsRegistry s t) : KeepsRegistry s (drain cfg t) :=
  Keeps.drain cfg (fun _ _ => rfl) (takeAnswer_keepsRegistry cfg) h

/-! ### The rows, from an idle engine -/

theorem runCommand_keepsRecords {start : State → State} (hjob : s.job = none) (h : KeepsRecords s (start s)) :
    KeepsRecords s (runCommand cfg start s) := by
  rw [runCommand_idle cfg s start hjob]
  exact h.drain cfg

theorem runAlone_keepsRecords {start : State → State} (hjob : s.job = none) (h : KeepsRecords s (start s)) :
    KeepsRecords s (runAlone cfg start s) := by
  rw [runAlone_idle cfg s start hjob]
  exact h.drain cfg

/-- A row that does not reset the bus. -/
theorem exec_keepsRecords {i : Instr} (hi : resetsBus i = false) (hjob : s.job = none) (h : exec i s = .next t) :
    KeepsRecords s t := by
  cases i with
  | init | reset | discover => cases hi
  | deviceCount | devices | lastError => cases h; exact runCommand_keepsRecords hw hjob (.ended rfl rfl)
  | device index => cases h; exact runCommand_keepsRecords hw hjob (respondEntry_keepsRecords _ s)
  | writeByte | readByte | skipRom | readRom | searchRom | matchRom =>
    cases h; exact runCommand_keepsRecords hw hjob (.waiting rfl rfl rfl)
  | configure | transceive | resetPulse | writeBit1 | writeBit0 | readBit | romSkip | romRead | romMatch | romSearch =>
    cases h; exact runAlone_keepsRecords hw hjob (.waiting rfl rfl rfl)
  | xaCaptured | xaNothingOrDone | xaFailure | xaReserved =>
    cases h; exact .ended (by rw [takeAnswer_idle hw s _ hjob, hjob]) (by rw [takeAnswer_idle hw s _ hjob])
  | reserved00 | reserved0E | reserved0F | reserved10to1F | reserved20to3F | reserved40to7F | reserved80toFF =>
    cases h; exact .ended hjob rfl

/-- A row that runs no enumeration. -/
theorem exec_keepsRegistry {i : Instr} (hi : runsEnumeration i = false) (hjob : s.job = none) (h : exec i s = .next t) :
    KeepsRegistry s t := by
  cases i with
  | init | discover => cases hi
  | reset =>
    cases h
    rw [runCommand_idle hw s _ hjob]
    exact KeepsRegistry.drain hw (.waiting rfl rfl rfl)
  | _ => exact (exec_keepsRecords rfl hjob h).keepsRegistry

/-! ### A step -/

/-- `f` is written only by commands that `commands` names, when they are accepted, and by answers taken at `positions`. -/
structure WrittenOnlyBy (commands : Instr → Bool) (positions : Job → Bool) (f : State → α) : Prop where
  host : ∀ {i}, commands i = true → Laws.Channel.formatOf i = .hc
  inbox : ∀ s q, f { s with inbox := q } = f s
  reject : ∀ s, f (rejectWord s) = f s
  idle : ∀ {i s t}, commands i = false → s.job = none → exec i s = .next t → f t = f s
  answer : ∀ s a j, s.job = some j → positions j = false → f (takeAnswer hw a s) = f s

/-- The input that a step takes is one that may write: the hardware reset (R200), a command that is accepted, or an answer. -/
def TakesWriter (commands : Instr → Bool) (positions : Job → Bool) (s : State) : Prop :=
  ∃ x rest, s.inbox = x :: rest ∧
    (x = .hardReset ∨ (∃ w, x = .word (.host w) ∧ s.busy = false ∧ commands (decodeHost w) = true) ∨
     (∃ w j, x = .word (.answer w) ∧ s.job = some j ∧ positions j = true))

variable {commands : Instr → Bool} {p : PortWord} {i : Instr}

/-- An idle engine has `f` written by a word of the host port alone, one that spells a command of `commands`. -/
theorem WrittenOnlyBy.exec_idle (hf : WrittenOnlyBy commands positions f)
    (hp : decode p = .ok i) (hjob : s.job = none) (h : exec i s = .next t) (hne : f t ≠ f s) :
    ∃ w, p = .host w ∧ commands (decodeHost w) = true := by
  have hi : commands i = true := by
    by_contra hi
    exact hne (hf.idle (by simpa using hi) hjob h)
  have hformat := (formatOf_decode hp).symm.trans (hf.host hi)
  cases p with
  | host w => cases hp; exact ⟨w, rfl, hi⟩
  | call | answer | romByte => cases hformat

/-- A busy engine has `f` written by an answer alone, taken at one of `positions`. -/
theorem WrittenOnlyBy.exec_busy (hf : WrittenOnlyBy commands positions f)
    (hp : decode p = .ok i) {j : Job} (hjob : s.job = some j) (h : exec i s = .next t) (hne : f t ≠ f s) :
    ∃ w, p = .answer w ∧ positions j = true := by
  by_cases hi : Laws.Channel.formatOf i = .xa
  · have hformat := (formatOf_decode hp).symm.trans hi
    cases p with
    | answer w =>
      cases hp
      cases (exec_decodeAnswer s w).symm.trans h
      refine ⟨w, rfl, ?_⟩
      by_contra hj
      exact hne (hf.answer s _ j hjob (by simpa using hj))
    | host | call | romByte => cases hformat
  · obtain hsame | hreject := Machine.exec_busy hi (busy_of_some s j hjob)
    · cases hsame.symm.trans h
      exact absurd rfl hne
    · cases hreject.symm.trans h
      exact absurd (hf.reject s) hne

theorem WrittenOnlyBy.step (hf : WrittenOnlyBy commands positions f) (h : step s = .next t)
    (hne : f t ≠ f s) : TakesWriter commands positions s := by
  obtain ⟨-, rfl⟩ | ⟨rest, hq, -⟩ | ⟨p, rest, i, hq, hp, hexec⟩ := step_cases h
  · exact absurd rfl hne
  · exact ⟨_, rest, hq, .inl rfl⟩
  · rw [← hf.inbox s rest] at hne
    cases hjob : s.job with
    | none =>
      obtain ⟨w, rfl, hw⟩ := hf.exec_idle (s := { s with inbox := rest }) hp hjob hexec hne
      exact ⟨_, rest, hq, .inr (.inl ⟨w, rfl, busy_of_none s hjob, hw⟩)⟩
    | some j =>
      obtain ⟨w, rfl, hj⟩ := hf.exec_busy (s := { s with inbox := rest }) hp hjob hexec hne
      exact ⟨_, rest, hq, .inr (.inr ⟨w, j, rfl, hjob, hj⟩)⟩

theorem runsEnumeration_formatOf {i : Instr} (h : runsEnumeration i = true) : Laws.Channel.formatOf i = .hc := by
  cases i with
  | init | discover => rfl
  | _ => cases h

theorem resetsBus_formatOf {i : Instr} (h : resetsBus i = true) : Laws.Channel.formatOf i = .hc := by
  cases i with
  | init | reset | discover => rfl
  | _ => cases h

theorem registry_writtenOnlyBy : WrittenOnlyBy runsEnumeration enumerates State.reg where
  host := runsEnumeration_formatOf
  inbox _ _ := rfl
  reject _ := rfl
  idle hi hjob h := (exec_keepsRegistry hi hjob h).kept
  answer s a j hjob hj := (takeAnswer_keepsRegistry hw s a j hjob hj).kept

theorem errCode_writtenOnlyBy : WrittenOnlyBy resetsBus recordsErrors State.errCode where
  host := resetsBus_formatOf
  inbox _ _ := rfl
  reject _ := rfl
  idle hi hjob h := congrArg Prod.snd (exec_keepsRecords hi hjob h).kept
  answer s a j hjob hj := congrArg Prod.snd (takeAnswer_keepsRecords hw s a j hjob hj).kept

end Sys2Proof.Machine
end

section
/-! The commands that read the registry and the error record (44_registry.md R160 to R163), answered at once. -/

namespace Sys2Proof.Machine

variable {s : State}

/-- A command that issues no request is answered in the step that accepts it (log 1). -/
theorem runCommand_of_ended (cfg : Config) {start : State → State} (hjob : s.job = none) (hend : (start s).job = none) :
    runCommand cfg start s = start s := by
  rw [runCommand_idle cfg s start hjob, drainQueue_idle cfg _ _ (busy_of_none _ hend)]

theorem respond_of_idle (hjob : s.job = none) (st : Status) (d : BitVec 64) (b : List DeviceId) :
    respond st d b s = { s with responses := s.responses ++ [{ status := st, data := d, beats := b }] } := by
  rw [respond, ← hjob]

theorem runCommand_respond (cfg : Config) (hjob : s.job = none) (st : Status) (d : State → BitVec 64)
    (b : State → List DeviceId) :
    runCommand cfg (fun s => respond st (d s) (b s) s) s =
      { s with responses := s.responses ++ [{ status := st, data := d s, beats := b s }] } :=
  (runCommand_of_ended cfg hjob rfl).trans (respond_of_idle hjob ..)

theorem respondEntry_of_lt {n : Nat} (h : n < s.reg.length) : respondEntry n s = respond .ok s.reg[n] [] s := by
  simp only [respondEntry, Registry.entry, List.getElem?_eq_getElem h]

theorem respondEntry_of_le {n : Nat} (h : s.reg.length ≤ n) : respondEntry n s = respond .notFound 0#64 [] s := by
  simp only [respondEntry, Registry.entry, List.getElem?_eq_none h]

theorem exec_device (index : Byte) (hjob : s.job = none) :
    exec (.device index) s = .next (respondEntry (indexOf index) s) :=
  congrArg _ (runCommand_of_ended hw hjob (by rw [respondEntry_eq]; rfl))

theorem indexOf_eq (index : Byte) : indexOf index = index.toNat := BitVec.toNat_setWidth_of_le (by omega)

/-- R162: the comparison of 9 bits is that of the index with the number of entries. -/
theorem index_lt_count_iff (index : Byte) (h : s.reg.length ≤ 256) :
    index.zeroExtend 9 < s.count ↔ index.toNat < s.reg.length := by
  rw [BitVec.lt_def, ← indexOf, indexOf_eq, State.count, BitVec.toNat_ofNat, Nat.mod_eq_of_lt (by omega)]

end Sys2Proof.Machine
end

section
/-! The statements of 44_registry.md. -/

namespace Sys2Proof.Claims

open Sys2Proof.Machine

/-- Settles O49: the two registers are written from the rows and the positions that R165 names, and from no others. -/
theorem registryAndErrorRecordWriters : Obligations.RegistryAndErrorRecordWriters := by
  unfold Obligations.RegistryAndErrorRecordWriters
  exact fun _ _ h => ⟨registry_writtenOnlyBy.step h, errCode_writtenOnlyBy.step h⟩

/-- Settles O24: the three reads issue no request, so that they are answered at once. -/
theorem registryReadsComplete : Obligations.RegistryReadsComplete := by
  unfold Obligations.RegistryReadsComplete
  intro arg s hjob answered
  exact ⟨congrArg _ (runCommand_respond hw hjob .ok State.countData fun _ => []),
    congrArg _ (runCommand_respond hw hjob .ok State.countData State.reg),
    congrArg _ (runCommand_respond hw hjob .ok (fun s => s.errCode.bits.zeroExtend 64) fun _ => [])⟩

/-- Settles O25, on each side of the index test. -/
theorem deviceCompletes : Obligations.DeviceCompletes := by
  unfold Obligations.DeviceCompletes
  intro index s hjob hlen
  rw [index_lt_count_iff index hlen, exec_device index hjob, indexOf_eq]
  refine ⟨fun hlt => ⟨hlt, ?_⟩, fun hle => ⟨hle.not_gt, ?_⟩⟩
  · rw [respondEntry_of_lt hlt, respond_of_idle hjob]
  · rw [respondEntry_of_le hle, respond_of_idle hjob]

end Sys2Proof.Claims
end

section
/-! What is given or owed to the host (60_exceptions.md R190): a host command begins by owing its one response and ends by giving
it, and nothing that happens in between changes the sum. -/

namespace Sys2Proof.Machine

open Sys2Proof.Safety Sys2Proof.Laws.Channel

variable (cfg : Config) (s : State)

/-! ### The parts of a procedure -/

@[simp] theorem responsesOwed_rejectWord : responsesOwed (rejectWord s) = responsesOwed s + 1 := by
  simp only [responsesOwed, rejectWord_responses, rejectWord_job, List.length_append, List.length_singleton]
  omega

@[simp] theorem responsesOwed_respond (st : Status) (d : BitVec 64) (b : List DeviceId) :
    responsesOwed (respond st d b s) = s.responses.length + 1 := by simp [responsesOwed]

theorem responsesOwed_of_idle {s : State} (hjob : s.job = none) : responsesOwed s = s.responses.length := by
  simp [responsesOwed, hjob]

/-- What is owed at a position does not depend on what was written to the registers there. -/
theorem responsesOwed_await_of_job {s u : State} {j : Job} (hjob : s.job = some j) (hu : u.responses = s.responses) :
    responsesOwed (await j u) = responsesOwed s := by simp [responsesOwed, hjob, hu]

theorem responsesOwed_respondEntry (index : Nat) : responsesOwed (respondEntry index s) = s.responses.length + 1 := by
  unfold respondEntry
  split <;> exact responsesOwed_respond ..

@[simp] theorem responsesOwed_endEnumeration (o : Owner) (st : Status) :
    responsesOwed (endEnumeration o st s) = s.responses.length + 1 := by
  cases o <;> exact responsesOwed_respond ..

theorem responsesOwed_nextPass (o : Owner) : responsesOwed (nextPass o s) = s.responses.length + 1 := by
  cases hlz : s.lz with
  | none => rw [nextPass_end s o hlz, responsesOwed_endEnumeration]
  | some p => rw [nextPass_more s o p hlz]; rfl

theorem responsesOwed_passComplete (o : Owner) : responsesOwed (passComplete cfg o s) = s.responses.length + 1 := by
  unfold passComplete
  split_ifs
  · exact responsesOwed_nextPass ..
  · exact responsesOwed_endEnumeration ..
  · exact responsesOwed_nextPass ..

theorem responsesOwed_resetReturn (k : ResetCaller) (ok : Bool) :
    responsesOwed (resetReturn k ok s) = s.responses.length + 1 := by
  cases k with
  | command => exact responsesOwed_respond ..
  | init =>
    cases ok
    · exact responsesOwed_respond ..
    · rfl
  | pass o =>
    cases ok
    · exact responsesOwed_endEnumeration ..
    · rfl

theorem responsesOwed_resetClassified (k : ResetCaller) (c : ResetClass) :
    responsesOwed (resetClassified k c s) = s.responses.length + 1 := by
  cases c <;> exact responsesOwed_resetReturn ..

/-- A byte sent for a host command ends in a response or goes on to a search position; one sent alone owes nothing. -/
theorem responsesOwed_writeReturn (k : WriteCaller) :
    responsesOwed (writeReturn k s) = responsesOwed (await (.transceiving (.writeSlot k)) s) := by
  cases k with
  | command => exact responsesOwed_respond ..
  | pass | alone => rfl

theorem responsesOwed_writeSlotDone (k : WriteCaller) :
    responsesOwed (writeSlotDone k s) = responsesOwed (await (.transceiving (.writeSlot k)) s) := by
  by_cases hmore : (s.bitcnt + 1#4).toNat < 8
  · rw [writeSlotDone_more s k hmore]; rfl
  · rw [writeSlotDone_last s k hmore]; exact responsesOwed_writeReturn _ k

theorem responsesOwed_readSlotDone (v : Bool) : responsesOwed (readSlotDone v s) = s.responses.length + 1 := by
  by_cases hmore : (s.bitcnt + 1#4).toNat < 8
  · rw [readSlotDone_more s v hmore]; rfl
  · rw [readSlotDone_last s v hmore, responsesOwed_respond]

theorem responsesOwed_positionRead (o : Owner) (a b : Bool) :
    responsesOwed (positionRead o a b s) = s.responses.length + 1 := by
  unfold positionRead
  split
  · exact responsesOwed_endEnumeration ..
  · rfl

theorem responsesOwed_positionDone (o : Owner) : responsesOwed (positionDone cfg o s) = s.responses.length + 1 := by
  by_cases hmore : (s.pos + 1#7).toNat < 64
  · rw [positionDone_more cfg s o hmore]; rfl
  · rw [positionDone_last cfg s o hmore]; exact responsesOwed_passComplete ..

/-! ### Answers -/

theorem responsesOwed_configured (p : ConfigPoint) :
    responsesOwed (configured cfg p s) = responsesOwed (await (.configuring p) s) := by
  cases p with
  | resetEntry | alone => rfl
  | resetExit => exact responsesOwed_resetClassified ..

theorem responsesOwed_transceived (p : TransceivePoint) (r : Capture) :
    responsesOwed (transceived cfg p r s) = responsesOwed (await (.transceiving p) s) := by
  cases p with
  | resetPulse | alone => rfl
  | writeSlot => exact responsesOwed_writeSlotDone ..
  | readSlot => exact responsesOwed_readSlotDone ..
  | search o slot =>
    cases slot with
    | firstRead => rfl
    | secondRead => exact responsesOwed_positionRead ..
    | writeBack => exact responsesOwed_positionDone ..

/-- A TransportError gives the response that the command owed; a procedure that ran on its own owed none. -/
theorem responsesOwed_raiseTransportError (j : Job) :
    responsesOwed (raiseTransportError cfg j s) = responsesOwed (await j s) := by
  unfold raiseTransportError
  cases hj : j.isAlone <;> simp [responsesOwed, hj]

/-- An answer is no word of the host, and no response is for it. -/
theorem responsesOwed_takeAnswer (a : Answer) : responsesOwed (takeAnswer cfg a s) = responsesOwed s := by
  obtain ⟨-, heq⟩ | ⟨j, hjob, -, heq⟩ | ⟨p, hjob, -, heq⟩ | ⟨p, r, hjob, -, heq⟩ := takeAnswer_cases cfg s a
  · rw [heq]
  · rw [heq, responsesOwed_raiseTransportError]; exact responsesOwed_await_of_job hjob rfl
  · rw [heq, responsesOwed_configured]; exact responsesOwed_await_of_job hjob rfl
  · rw [heq, responsesOwed_transceived]; exact responsesOwed_await_of_job hjob rfl

theorem responsesOwed_drain : responsesOwed (drain cfg s) = responsesOwed s :=
  drainQueue_induct cfg (P := fun t => responsesOwed t = responsesOwed s)
    (fun t a _ ht => (responsesOwed_takeAnswer cfg t a).trans ht) (fun _ _ ht => ht) s.inbox s rfl

/-! ### Command words -/

/-- A command word is rejected or offered as a command, which begins by owing its response, or gives it at once. -/
theorem exec_host {i : Instr} (hi : formatOf i = .hc) :
    exec i s = .next (rejectWord s) ∨ ∃ start : State → State,
      exec i s = .next (runCommand hw start s) ∧ ∀ u, responsesOwed (start u) = u.responses.length + 1 := by
  cases i with
  | reserved00 | reserved0E | reserved0F | reserved10to1F | reserved20to3F | reserved40to7F | reserved80toFF =>
    exact .inl rfl
  | deviceCount | devices | lastError => exact .inr ⟨_, rfl, fun u => responsesOwed_respond u ..⟩
  | device index => exact .inr ⟨_, rfl, fun u => responsesOwed_respondEntry u (indexOf index)⟩
  | configure | transceive | resetPulse | writeBit1 | writeBit0 | readBit => cases hi
  | romSkip | romRead | romMatch | romSearch => cases hi
  | xaCaptured | xaNothingOrDone | xaFailure | xaReserved => cases hi
  | _ => exact .inr ⟨_, rfl, fun _ => rfl⟩

theorem responsesOwed_runCommand {start : State → State}
    (hstart : ∀ u, responsesOwed (start u) = u.responses.length + 1) :
    responsesOwed (runCommand cfg start s) = responsesOwed s + 1 := by
  cases hjob : s.job with
  | none =>
    rw [runCommand_idle cfg s start hjob, ← drain, responsesOwed_drain, hstart, responsesOwed_of_idle hjob]
  | some j => rw [runCommand_busy cfg s start (busy_of_some s j hjob), responsesOwed_rejectWord]

theorem responsesOwed_exec_host {s t : State} {i : Instr} (hi : formatOf i = .hc) (h : exec i s = .next t) :
    responsesOwed t = responsesOwed s + 1 := by
  obtain hreject | ⟨start, hcommand, hstart⟩ := exec_host s hi
  · cases hreject.symm.trans h
    exact responsesOwed_rejectWord s
  · cases hcommand.symm.trans h
    exact responsesOwed_runCommand hw s hstart

/-- R31: a busy engine rejects every command word. -/
theorem exec_host_busy {i : Instr} (hi : formatOf i = .hc) (hbusy : s.busy = true) :
    exec i s = .next (rejectWord s) := by
  obtain hreject | ⟨start, hcommand, -⟩ := exec_host s hi
  · exact hreject
  · rw [hcommand, runCommand_busy hw s start hbusy]

/-! ### A step -/

/-- A step on a transport answer has the outstanding request take it. -/
theorem step_answer {s : State} {w : AnswerWord} {rest : List Input} (h : s.inbox = .word (.answer w) :: rest) :
    step s = .next (takeAnswer hw (answerOfWord w) { s with inbox := rest }) := by
  simp only [step, fetch, h, decode, exec_decodeAnswer]

end Sys2Proof.Machine
end

section
/-! How a TransportError ends a host command (60_exceptions.md R172). -/

namespace Sys2Proof.Machine

open Sys2Proof.Claims

variable {s : State} {j : Job}

theorem await_of_job (hjob : s.job = some j) : await j s = s := by rw [await, ← hjob]

/-- The state a failed request of a host command leaves: its event and `ST_XPORT` added, `mode` lost by a `Configure`. -/
theorem respond_requestFailed (r : Request) :
    respond .xport 0#64 [] (requestFailed r s) = { s with
      job := none
      mode := modeAfterFailure s.mode r
      trace := s.trace ++ [failureEvent r]
      responses := s.responses ++ [bare .xport] } := by cases r <;> rfl

theorem takeAnswer_failure (cfg : Config) (hjob : s.job = some j) (hj : j.isAlone = false) :
    takeAnswer cfg .failure s = respond .xport 0#64 [] (requestFailed (j.request cfg s.sh) s) := by
  simpa only [await_of_job hjob] using takeAnswer_await_failure cfg s hj

end Sys2Proof.Machine
end

section
/-! The statements of 60_exceptions.md. -/

namespace Sys2Proof.Claims

open Sys2Proof.Machine Sys2Proof.Safety

/-- Settles O53: a command word is rejected, or owes its response until it gives it; an answer leaves the sum as it is. -/
theorem oneResponsePerWord : Obligations.OneResponsePerWord := by
  unfold Obligations.OneResponsePerWord
  intro s t rest h
  refine ⟨fun w hinbox => ?_, fun w hinbox => ?_⟩
  · rw [step_host hinbox] at h
    exact responsesOwed_exec_host (s := { s with inbox := rest }) (formatOf_decodeHost w) h
  · cases (step_answer hinbox).symm.trans h
    exact responsesOwed_takeAnswer hw _ _

/-- Settles O12: a busy engine rejects every command word, and the reserved rows reject in every state. -/
theorem rejectedWordDisturbsNothing : Obligations.RejectedWordDisturbsNothing := by
  unfold Obligations.RejectedWordDisturbsNothing
  intro s w rest hinbox hnot
  have hreject : step s = .next (rejectWord { s with inbox := rest }) := by
    obtain hbusy | hopc := hnot
    · rw [step_host hinbox]
      exact exec_host_busy _ (formatOf_decodeHost w) hbusy
    · exact reservedWordRejected s w rest hinbox hopc
  exact ⟨_, hreject, rfl, rfl⟩

/-- Settles O30: both rows are taken as a failure, and a failure writes nothing of the search state at any position. -/
theorem failureEndsTheCommand : Obligations.FailureEndsTheCommand := by
  unfold Obligations.FailureEndsTheCommand
  intro s j kind low hjob hj after ends
  have hends : takeAnswer hw .failure s = after :=
    (takeAnswer_failure hw hjob hj).trans (respond_requestFailed _)
  have hframe : upToSearchState after after ∧ (enumerates j = false → sameSearchState s after) :=
    ⟨rfl, fun _ => ⟨rfl, rfl, rfl, rfl⟩⟩
  exact ⟨⟨after, congrArg _ hends, hframe⟩, ⟨after, congrArg _ hends, hframe⟩⟩

end Sys2Proof.Claims
end

section
/-! The hardware reset in a step, and the step that finds nothing to take (70_reset_and_hazards.md R200, R201, R211). -/

namespace Sys2Proof.Machine

/-- Byte space of an empty registry: no address is readable (R20, R45). -/
@[simp] theorem memByte_nil (addr : Nat) : Registry.memByte [] addr = none := rfl

@[simp] theorem hardReset_mode (s : State) : (hardReset s).mode = .unconf := rfl
@[simp] theorem hardReset_errCode (s : State) : (hardReset s).errCode = .noError := rfl
@[simp] theorem hardReset_reg (s : State) : (hardReset s).reg = [] := rfl
@[simp] theorem hardReset_ld (s : State) : (hardReset s).ld = none := rfl
@[simp] theorem hardReset_curId (s : State) : (hardReset s).curId = 0#64 := rfl
@[simp] theorem hardReset_lz (s : State) : (hardReset s).lz = none := rfl
@[simp] theorem hardReset_pos (s : State) : (hardReset s).pos = 0#7 := rfl
@[simp] theorem hardReset_sh (s : State) : (hardReset s).sh = 0#8 := rfl
@[simp] theorem hardReset_bitcnt (s : State) : (hardReset s).bitcnt = 0#4 := rfl
@[simp] theorem hardReset_job (s : State) : (hardReset s).job = none := rfl
@[simp] theorem hardReset_responses (s : State) : (hardReset s).responses = s.responses := rfl
@[simp] theorem hardReset_trace (s : State) : (hardReset s).trace = s.trace := rfl

/-- A step on the hardware reset resets the state, the input taken. -/
theorem step_hardReset {s : State} {rest : List Input} (h : s.inbox = .hardReset :: rest) :
    step s = .next (hardReset { s with inbox := rest }) := by
  simp only [step, fetch, h]

/-- A step with nothing to take leaves the state as it is, idle or busy. -/
theorem step_emptyInbox {s : State} (h : s.inbox = []) : step s = .next s := by
  simp only [step, fetch, h]

/-- A state that a step leaves as it is stays so for any number of steps. -/
theorem run_of_step_self {s : State} (hstep : step s = .next s) (n : Nat) : core.run n s = .next s := by
  induction n with
  | zero => rfl
  | succ n ih =>
    calc core.run (n + 1) s = core.run n s := by simp only [Host.Core.run, core, hstep]
      _ = .next s := ih

end Sys2Proof.Machine
end

section
/-! The statements of 70_reset_and_hazards.md. -/

namespace Sys2Proof.Claims

open Sys2Proof.Machine

/-- Settles O9: the reset state is written whole, whatever stood before; only the two histories are carried over. -/
theorem hardResetAtAnyTime : Obligations.HardResetAtAnyTime := by
  unfold Obligations.HardResetAtAnyTime
  intro s rest hinbox
  refine ⟨_, step_hardReset hinbox, ?_⟩
  simp [State.busy, State.count, State.request]

/-- Settles O11: a step with nothing to take changes nothing, so no number of them does. -/
theorem waitsWithoutBound : Obligations.WaitsWithoutBound := by
  unfold Obligations.WaitsWithoutBound
  intro s n hinbox _
  exact run_of_step_self (step_emptyInbox hinbox) n

end Sys2Proof.Claims
end

section
/-! The decoder and the encoder are inverse to each other, channel by channel (30_encoding.md). -/

namespace Sys2Proof

open Sys2Proof.Machine Sys2Proof.Laws.Channel

/-! ### Command words (R70, R72, R82) -/

/-- The rows with free `OPC` bits are those from 0x10 on (R82). -/
theorem decodeHost_of_le {w : CommandWord} (h : 0x10 ≤ (opcOf w).toNat) :
    decodeHost w =
      if (opcOf w).toNat < 0x20 then .reserved10to1F (w.extractLsb' 8 4) (argOf w)
      else if (opcOf w).toNat < 0x40 then .reserved20to3F (w.extractLsb' 8 5) (argOf w)
      else if (opcOf w).toNat < 0x80 then .reserved40to7F (w.extractLsb' 8 6) (argOf w)
      else .reserved80toFF (w.extractLsb' 8 7) (argOf w) := by
  unfold decodeHost
  dsimp only
  split
  case h_17 => rfl
  all_goals omega

/-- The number of an `OPC` that is the bits `fixed` of its row and the free bits `x`. -/
theorem toNat_opcOf_reserved {n m : Nat} (h : n + m = 8) (fixed : BitVec n) (x : BitVec m) (arg : Byte) :
    (opcOf (commandWord ((fixed ++ x).cast h) arg)).toNat = 2 ^ m * fixed.toNat + x.toNat := by
  rw [opcOf_commandWord, BitVec.toNat_cast, BitVec.toNat_append, Nat.shiftLeft_eq, Nat.mul_comm,
    Nat.two_pow_add_eq_or_of_lt x.isLt]

theorem decodeHost_reserved10to1F (x : BitVec 4) (arg : Byte) :
    decodeHost (commandWord (0b0001#4 ++ x) arg) = .reserved10to1F x arg := by
  have hopc : (opcOf (commandWord (0b0001#4 ++ x) arg)).toNat = 16 + x.toNat := toNat_opcOf_reserved rfl 0b0001#4 x arg
  rw [decodeHost_of_le (by omega), if_pos (by omega), argOf_commandWord]
  exact congrArg (Instr.reserved10to1F · arg) (freeOpc_commandWord rfl 0b0001#4 x arg)

theorem decodeHost_reserved20to3F (x : BitVec 5) (arg : Byte) :
    decodeHost (commandWord (0b001#3 ++ x) arg) = .reserved20to3F x arg := by
  have hopc : (opcOf (commandWord (0b001#3 ++ x) arg)).toNat = 32 + x.toNat := toNat_opcOf_reserved rfl 0b001#3 x arg
  rw [decodeHost_of_le (by omega), if_neg (by omega), if_pos (by omega), argOf_commandWord]
  exact congrArg (Instr.reserved20to3F · arg) (freeOpc_commandWord rfl 0b001#3 x arg)

theorem decodeHost_reserved40to7F (x : BitVec 6) (arg : Byte) :
    decodeHost (commandWord (0b01#2 ++ x) arg) = .reserved40to7F x arg := by
  have hopc : (opcOf (commandWord (0b01#2 ++ x) arg)).toNat = 64 + x.toNat := toNat_opcOf_reserved rfl 0b01#2 x arg
  rw [decodeHost_of_le (by omega), if_neg (by omega), if_neg (by omega), if_pos (by omega), argOf_commandWord]
  exact congrArg (Instr.reserved40to7F · arg) (freeOpc_commandWord rfl 0b01#2 x arg)

theorem decodeHost_reserved80toFF (x : BitVec 7) (arg : Byte) :
    decodeHost (commandWord (0b1#1 ++ x) arg) = .reserved80toFF x arg := by
  have hopc : (opcOf (commandWord (0b1#1 ++ x) arg)).toNat = 128 + x.toNat := toNat_opcOf_reserved rfl 0b1#1 x arg
  rw [decodeHost_of_le (by omega), if_neg (by omega), if_neg (by omega), if_neg (by omega), argOf_commandWord]
  exact congrArg (Instr.reserved80toFF · arg) (freeOpc_commandWord rfl 0b1#1 x arg)

/-! ### Request words (R78) -/

theorem decodeRequest_configureWord (m : ConfigMode) : decodeRequest (configureWord m) = .ok (.configure m) := by
  cases m <;> rfl

theorem decodeRequest_transceiveWord (b : Byte) : decodeRequest (transceiveWord b) = .ok (.transceive b) := by
  rw [decodeRequest, if_pos (transceiveWord_kind b), transceiveWord_byte]

/-- A request word is its kind bit and its byte. -/
theorem transceiveWord_of_kind {w : RequestWord} (h : w.getLsbD 8 = true) : transceiveWord (w.extractLsb' 0 8) = w := by
  have hkind : w.extractLsb' 8 1 = 1#1 := by
    refine BitVec.eq_of_getLsbD_eq fun i hi => ?_
    obtain rfl : i = 0 := by omega
    simpa using h
  rw [transceiveWord, ← hkind]
  exact BitVec.extractLsb'_append_extractLsb' (w := 1) (len := 8)

/-- A request word whose high bits are zero is the code of its bit 0. -/
theorem configureWord_of_kind {w : RequestWord} (hkind : w.getLsbD 8 = false) (hzero : w.extractLsb' 1 7 = 0#7) :
    configureWord (configOfBit (w.getLsbD 0)) = w := by
  have hbit (b : Bool) : configBit (configOfBit b) = b := by cases b <;> rfl
  have hhigh (i : Nat) (hi : i < 8) : w.getLsbD (1 + i) = false := by
    obtain hlt | rfl := (Nat.lt_succ_iff.mp hi).lt_or_eq
    · simpa [hlt] using congrArg (·.getLsbD i) hzero
    · exact hkind
  rw [configureWord, hbit]
  refine BitVec.eq_of_getLsbD_eq fun i hi => ?_
  rw [BitVec.getLsbD_append]
  cases i with
  | zero => simp
  | succ i => simpa [Nat.add_comm] using (hhigh i (by omega)).symm

theorem encode_of_decodeRequest {w : RequestWord} {i : Instr} (h : decodeRequest w = .ok i) : encode i = .call .plain w := by
  unfold decodeRequest at h
  split at h
  case isTrue hkind =>
    cases h
    exact congrArg _ (transceiveWord_of_kind hkind)
  case isFalse hkind =>
    split at h
    case isTrue hzero =>
      cases h
      exact congrArg _ (configureWord_of_kind (by simpa using hkind) hzero)
    case isFalse => cases h

theorem encode_of_decodeCall {use : SlotUse} {w : RequestWord} {i : Instr} (h : decodeCall use w = .ok i) :
    encode i = .call use w := by
  cases use with
  | plain => exact encode_of_decodeRequest h
  | resetPulse | writeBit | readBit =>
    simp only [decodeCall] at h
    split_ifs at h <;> cases h <;> simp only [encode, *]

/-! ### Answer words (R79, R83) -/

/-- The reserved answers of the model are those outside the table (log 16). -/
theorem decodeAnswer_outside {kind : BitVec 2} {low : Byte} (h : outsideAnswerTable kind low = true) :
    decodeAnswer (kind ++ low) = .xaReserved kind low := by
  obtain rfl | ⟨rfl, hlow⟩ : kind = 3#2 ∨ kind = 1#2 ∧ low ≠ 0#8 := by simpa [outsideAnswerTable] using h
  · simp [decodeAnswer_append]
  · simp [decodeAnswer_append, hlow]

theorem encode_decodeAnswer (w : AnswerWord) : encode (decodeAnswer w) = .answer w := by
  have hword : w.extractLsb' 8 2 ++ w.extractLsb' 0 8 = w := BitVec.extractLsb'_append_extractLsb' (w := 2) (len := 8)
  unfold decodeAnswer
  dsimp only
  split_ifs with hcaptured hfailure hdone
  · rw [encode, ← hcaptured, hword]
  · rw [encode, ← hfailure, hword]
  · rw [hdone.1, hdone.2] at hword
    exact congrArg _ hword
  · rw [encode, hword]

theorem decodeAnswer_wellFormed (w : AnswerWord) : (decodeAnswer w).wellFormed = true := by
  unfold decodeAnswer
  dsimp only
  split_ifs with hcaptured hfailure hdone
  · rfl
  · rfl
  · rfl
  · have hkinds : ∀ kind : BitVec 2, kind ≠ 0#2 → kind ≠ 2#2 → kind = 1#2 ∨ kind = 3#2 := by decide
    obtain hkind | hkind := hkinds _ hcaptured hfailure
    · simpa [Instr.wellFormed, outsideAnswerTable, hkind] using hdone
    · simp [Instr.wellFormed, outsideAnswerTable, hkind]

/-! ### ROM command bytes (R77) -/

theorem encode_of_decodeRomByte {b : Byte} {i : Instr} (h : decodeRomByte b = .ok i) : encode i = .romByte b := by
  unfold decodeRomByte at h
  split_ifs at h <;> cases h <;> simp only [encode, *]

/-! ### All channels -/

theorem encode_of_decode {p : PortWord} {i : Instr} (h : decode p = .ok i) : encode i = p := by
  cases p with
  | host w => cases h; exact encode_decodeHost w
  | call use w => exact encode_of_decodeCall h
  | answer w => cases h; exact encode_decodeAnswer w
  | romByte b => exact encode_of_decodeRomByte h

theorem wellFormed_of_formatOf {i : Instr} (h : formatOf i ≠ .xa) : i.wellFormed = true := by
  cases i with
  | xaCaptured | xaNothingOrDone | xaFailure | xaReserved => exact absurd rfl h
  | _ => rfl

theorem wellFormed_of_decode {p : PortWord} {i : Instr} (h : decode p = .ok i) : i.wellFormed = true := by
  cases p with
  | answer w => cases h; exact decodeAnswer_wellFormed w
  | host | call | romByte => exact wellFormed_of_formatOf (by simp [formatOf_decode h, channelFormat])

end Sys2Proof

namespace Sys2Proof.Claims

open Sys2Proof.Machine Sys2Proof.Safety

/-- Settles O1, row by row: the fields of the word that the encoder builds are the ones the decoder reads. -/
theorem decodeOfEncode : Obligations.DecodeOfEncode := by
  unfold Obligations.DecodeOfEncode
  intro i hi
  cases i with
  | reserved10to1F x arg => exact congrArg _ (decodeHost_reserved10to1F x arg)
  | reserved20to3F x arg => exact congrArg _ (decodeHost_reserved20to3F x arg)
  | reserved40to7F x arg => exact congrArg _ (decodeHost_reserved40to7F x arg)
  | reserved80toFF x arg => exact congrArg _ (decodeHost_reserved80toFF x arg)
  | configure m => exact decodeRequest_configureWord m
  | transceive b => exact decodeRequest_transceiveWord b
  | resetPulse | writeBit1 | writeBit0 | readBit => rfl
  | xaCaptured c => exact congrArg _ (decodeAnswer_append 0#2 c)
  | xaNothingOrDone => rfl
  | xaFailure low => exact congrArg _ (decodeAnswer_append 2#2 low)
  | xaReserved kind low => exact congrArg _ (decodeAnswer_outside hi)
  | romSkip | romRead | romMatch | romSearch => rfl
  | _ => simp [encode, decode, decodeHost]

/-- Settles O2, channel by channel. -/
theorem encodeOfDecode : Obligations.EncodeOfDecode := by
  unfold Obligations.EncodeOfDecode
  exact fun _ _ h => ⟨wellFormed_of_decode h, encode_of_decode h⟩

/-- Settles O4, by evaluation of the decoder on the twelve words. -/
theorem sampleWordsDecode : Obligations.SampleWordsDecode := by
  unfold Obligations.SampleWordsDecode
  exact ⟨rfl, rfl, rfl, rfl, rfl, rfl, rfl, rfl, rfl, rfl, rfl, rfl⟩

/-- Settles O32: a word that reads as a capture or as done is the word of that capture, since no bit of a word is lost. -/
theorem answersOutsideTheTableFail : Obligations.AnswersOutsideTheTableFail := by
  unfold Obligations.AnswersOutsideTheTableFail
  refine ⟨answerOfWord_captured, answerOfWord_nothing, fun w hw => ?_⟩
  have hword := encode_decodeAnswer w
  unfold answerOfWord
  cases hi : decodeAnswer w with
  | xaCaptured c => rw [hi] at hword; exact absurd (PortWord.answer.inj hword).symm (hw (.captured c))
  | xaNothingOrDone => rw [hi] at hword; exact absurd (PortWord.answer.inj hword).symm (hw .nothing)
  | _ => rfl

end Sys2Proof.Claims
end

section
/-! The invariant (10_state.md R24, R37, R40) over the sequencer: what each procedure needs of the registers to go on to a
position whose form holds, or to end. -/

namespace Sys2Proof.Machine

open Sys2Proof.Safety

/-- The invariant but for the sequencing position. -/
structure InRange (s : State) : Prop where
  registry : registryForm hw s.reg
  bitcnt : s.bitcnt.toNat ≤ 8
  pos : s.pos.toNat ≤ 64

/-- What a search pass relies on after its RESET (43_rom_search.md R141). -/
structure SearchReady (s : State) : Prop where
  errCode : s.errCode = .noError
  mode : s.mode = .dataMode

/-- The zeros recorded in a pass are at positions before `n` (R144). -/
def ZerosBefore (n : Nat) (s : State) : Prop := ∀ p, s.lz = some p → p.toNat < n

variable {s : State}

theorem inRange_of_inv (h : Inv s) : InRange s := ⟨h.registry, h.bitcnt, h.pos⟩

theorem InRange.ended (h : InRange s) (hjob : s.job = none) : Inv s := ⟨h.registry, h.bitcnt, h.pos, by simp [hjob]⟩

theorem InRange.awaits {j : Job} (h : InRange s) (hj : jobForm (await j s) j) : Inv (await j s) :=
  ⟨h.registry, h.bitcnt, h.pos, by rintro k ⟨⟩; exact hj⟩

/-- The form of a position depends on five registers. -/
theorem jobForm_congr {t : State} (herrCode : t.errCode = s.errCode) (hmode : t.mode = s.mode)
    (hbitcnt : t.bitcnt = s.bitcnt) (hpos : t.pos = s.pos) (hlz : t.lz = s.lz) (j : Job) :
    jobForm t j = jobForm s j := by
  unfold jobForm
  rw [herrCode, hmode, hbitcnt, hpos, hlz]

theorem inv_withInbox (q : List Input) (h : Inv s) : Inv { s with inbox := q } :=
  ⟨h.registry, h.bitcnt, h.pos, fun j hj => (jobForm_congr rfl rfl rfl rfl rfl j).mpr (h.job j hj)⟩

theorem inv_rejectWord (h : Inv s) : Inv (rejectWord s) :=
  ⟨h.registry, h.bitcnt, h.pos, fun j hj => (jobForm_congr rfl rfl rfl rfl rfl j).mpr (h.job j hj)⟩

theorem inv_hardReset (s : State) : Inv (hardReset s) :=
  InRange.ended ⟨empty_registryForm hw, by simp, by simp⟩ rfl

/-! ### The beginnings -/

theorem InRange.startReset (h : InRange s) (k : ResetCaller) : Inv (startReset k s) :=
  InRange.awaits ⟨h.registry, h.bitcnt, h.pos⟩ rfl

theorem InRange.startDiscover (h : InRange s) (o : Owner) : Inv (startDiscover o s) :=
  InRange.startReset (s := clearForEnumeration s) ⟨empty_registryForm hw, h.bitcnt, h.pos⟩ _

/-- The form of a write slot: the counter inside the loop, and in a search pass what the pass relies on. -/
theorem jobForm_writeSlot_iff (k : WriteCaller) :
    jobForm s (.transceiving (.writeSlot k)) ↔ s.bitcnt.toNat < 8 ∧ ∀ o, k = .pass o → SearchReady s := by
  cases k with
  | command | alone => simp [jobForm]
  | pass o =>
    constructor
    · rintro ⟨hbitcnt, herrCode, hmode⟩
      exact ⟨hbitcnt, fun _ _ => ⟨herrCode, hmode⟩⟩
    · rintro ⟨hbitcnt, hready⟩
      exact ⟨hbitcnt, (hready o rfl).errCode, (hready o rfl).mode⟩

theorem InRange.startWriteByte (h : InRange s) (k : WriteCaller) (v : Byte) (hk : ∀ o, k = .pass o → SearchReady s) :
    Inv (startWriteByte k v s) := by
  refine InRange.awaits ⟨h.registry, by simp, h.pos⟩ ((jobForm_writeSlot_iff k).mpr ⟨by simp, fun o ho => ?_⟩)
  exact ⟨(hk o ho).errCode, (hk o ho).mode⟩

theorem InRange.startReadByte (h : InRange s) : Inv (startReadByte s) :=
  InRange.awaits ⟨h.registry, by simp, h.pos⟩ (by simp [jobForm])

theorem HostStart.inv {start : State → State} (hstart : HostStart start) (h : Inv s) : Inv (start s) := by
  have hrange := inRange_of_inv h
  cases hstart with
  | reset | init => exact hrange.startReset _
  | discover => exact hrange.startDiscover _
  | writeByte => exact hrange.startWriteByte _ _ nofun
  | readByte => exact hrange.startReadByte
  | read => exact InRange.ended ⟨h.registry, h.bitcnt, h.pos⟩ rfl

theorem LoneStart.inv {start : State → State} (hstart : LoneStart start) (h : Inv s) : Inv (start s) := by
  have hrange := inRange_of_inv h
  cases hstart with
  | configure | slot => exact hrange.awaits trivial
  | romByte => exact hrange.startWriteByte _ _ nofun

/-! ### The returns -/

theorem InRange.endEnumeration (h : InRange s) (o : Owner) (st : Status) : Inv (endEnumeration o st s) := by
  rw [endEnumeration_eq_answered]
  exact InRange.ended ⟨h.registry, h.bitcnt, h.pos⟩ rfl

theorem InRange.nextPass (h : InRange s) (o : Owner) : Inv (nextPass o s) := by
  cases hlz : s.lz with
  | none => rw [nextPass_end s o hlz]; exact h.endEnumeration o .ok
  | some p =>
    have hnext : InRange { s with ld := some p } := ⟨h.registry, h.bitcnt, h.pos⟩
    rw [nextPass_more s o p hlz]
    exact hnext.startReset _

/-- The two tests before the append keep the form of the registry (R147, R149). -/
theorem InRange.passComplete (h : InRange s) (o : Owner) : Inv (passComplete hw o s) := by
  by_cases hmem : s.curId ∈ s.reg
  · rw [passComplete_known hw s o hmem]
    exact h.nextPass o
  · by_cases hfull : hw.regCapacity ≤ s.reg.length
    · rw [passComplete_full hw s o hmem hfull]
      exact h.endEnumeration o .ovf
    · rw [passComplete_new hw s o hmem (by omega)]
      have hreg := append_registryForm hw s.reg s.curId h.registry hmem (by omega)
      exact InRange.nextPass (s := { s with reg := Registry.append s.reg s.curId }) ⟨hreg, h.bitcnt, h.pos⟩ o

theorem InRange.resetReturn (h : InRange s) (k : ResetCaller) (ok : Bool) (hok : ok = true → SearchReady s) :
    Inv (resetReturn k ok s) := by
  cases k with
  | command => exact InRange.ended ⟨h.registry, h.bitcnt, h.pos⟩ rfl
  | init =>
    cases ok
    · exact InRange.ended ⟨h.registry, h.bitcnt, h.pos⟩ rfl
    · exact h.startDiscover .init
  | pass o =>
    cases ok
    · exact h.endEnumeration o .stFalse
    · exact h.startWriteByte _ _ fun _ _ => hok rfl

theorem InRange.resetClassified (h : InRange s) (hready : SearchReady s) (k : ResetCaller) (c : ResetClass) :
    Inv (resetClassified k c s) := by
  unfold Machine.resetClassified
  split
  · exact h.resetReturn k true fun _ => hready
  · next e _ => exact InRange.resetReturn (s := { s with errCode := e }) ⟨h.registry, h.bitcnt, h.pos⟩ k false nofun

theorem InRange.writeReturn (h : InRange s) (k : WriteCaller) (hk : ∀ o, k = .pass o → SearchReady s) :
    Inv (writeReturn k s) := by
  cases k with
  | command | alone => exact InRange.ended ⟨h.registry, h.bitcnt, h.pos⟩ rfl
  | pass o => exact InRange.awaits ⟨h.registry, h.bitcnt, by simp⟩ ⟨by simp, (hk o rfl).errCode, (hk o rfl).mode, nofun⟩

/-! ### The loops -/

theorem InRange.writeSlotDone (h : InRange s) (k : WriteCaller) (hform : jobForm s (.transceiving (.writeSlot k))) :
    Inv (writeSlotDone k s) := by
  obtain ⟨hbitcnt, hk⟩ := (jobForm_writeSlot_iff k).mp hform
  have hk' (o : Owner) (ho : k = .pass o) : SearchReady { s with sh := shiftOut s.sh, bitcnt := s.bitcnt + 1#4 } :=
    ⟨(hk o ho).errCode, (hk o ho).mode⟩
  have hrange : InRange { s with sh := shiftOut s.sh, bitcnt := s.bitcnt + 1#4 } :=
    ⟨h.registry, by simp; omega, h.pos⟩
  by_cases hmore : (s.bitcnt + 1#4).toNat < 8
  · rw [writeSlotDone_more s k hmore]
    exact hrange.awaits ((jobForm_writeSlot_iff k).mpr ⟨hmore, fun o ho => ⟨(hk' o ho).errCode, (hk' o ho).mode⟩⟩)
  · rw [writeSlotDone_last s k hmore]
    exact hrange.writeReturn k hk'

theorem InRange.readSlotDone (h : InRange s) (t : Bool) (hform : jobForm s (.transceiving .readSlot)) :
    Inv (readSlotDone t s) := by
  have hbitcnt : s.bitcnt.toNat < 8 := hform
  have hrange : InRange { s with sh := shiftIn t s.sh, bitcnt := s.bitcnt + 1#4 } :=
    ⟨h.registry, by simp; omega, h.pos⟩
  by_cases hmore : (s.bitcnt + 1#4).toNat < 8
  · rw [readSlotDone_more s t hmore]
    exact hrange.awaits hmore
  · rw [readSlotDone_last s t hmore]
    exact InRange.ended ⟨hrange.registry, hrange.bitcnt, hrange.pos⟩ rfl

/-- A zero recorded at the current position is not behind it yet (R144). -/
theorem InRange.positionRead (h : InRange s) (hready : SearchReady s) (hpos : s.pos.toNat < 64)
    (hzeros : ZerosBefore s.pos.toNat s) (o : Owner) (a b : Bool) : Inv (positionRead o a b s) := by
  cases hab : a && b with
  | true =>
    obtain ⟨rfl, rfl⟩ : a = true ∧ b = true := by simpa using hab
    exact InRange.endEnumeration (s := { s with errCode := .noDevices }) ⟨h.registry, h.bitcnt, h.pos⟩ o .stFalse
  | false =>
    rw [positionRead_direction s o a b hab]
    refine InRange.awaits ⟨h.registry, h.bitcnt, h.pos⟩ ⟨hpos, hready.errCode, hready.mode, fun p hp => ?_⟩
    simp only [await_lz, cond_eq_ite] at hp
    split at hp
    · cases hp
      simp
      omega
    · exact (hzeros p hp).le

theorem InRange.positionDone (h : InRange s) (hready : SearchReady s) (hpos : s.pos.toNat < 64)
    (hzeros : ZerosBefore (s.pos.toNat + 1) s) (o : Owner) : Inv (positionDone hw o s) := by
  have hnext : (s.pos + 1#7).toNat = s.pos.toNat + 1 := by simp; omega
  have hrange : InRange { s with pos := s.pos + 1#7 } := ⟨h.registry, h.bitcnt, hnext ▸ hpos⟩
  by_cases hmore : (s.pos + 1#7).toNat < 64
  · rw [positionDone_more hw s o hmore]
    exact hrange.awaits ⟨hmore, hready.errCode, hready.mode, fun p hp => hnext ▸ hzeros p hp⟩
  · rw [positionDone_last hw s o hmore]
    exact hrange.passComplete o

/-! ### Answers -/

theorem InRange.configured (h : InRange s) {p : ConfigPoint} (hform : jobForm s (.configuring p)) :
    Inv (configured hw p (configureDone p.operand s)) := by
  have hrange : InRange (configureDone p.operand s) := ⟨h.registry, h.bitcnt, h.pos⟩
  cases p with
  | resetEntry k => exact hrange.awaits ⟨hform, rfl⟩
  | resetExit k r => exact hrange.resetClassified ⟨hform.1, rfl⟩ k _
  | alone => exact InRange.ended ⟨h.registry, h.bitcnt, h.pos⟩ rfl

/-- Wherever a `Transceive` is answered, the form of its position leads to that of the next. -/
theorem InRange.transceived (h : InRange s) {p : TransceivePoint} (hform : jobForm s (.transceiving p)) (r : Capture) :
    Inv (transceived hw p r s) := by
  cases p with
  | resetPulse k => exact h.awaits hform
  | writeSlot k => exact h.writeSlotDone k hform
  | readSlot => exact h.readSlotDone _ hform
  | search o slot =>
    obtain ⟨hpos, herrCode, hmode, hzeros⟩ : s.pos.toNat < 64 ∧ s.errCode = .noError ∧ s.mode = .dataMode ∧
        ZerosBefore (s.pos.toNat + 1) s := by
      cases slot <;> obtain ⟨hpos, herrCode, hmode, hzeros⟩ := hform <;>
        exact ⟨hpos, herrCode, hmode, fun p hp => by have := hzeros p hp; omega⟩
    cases slot with
    | firstRead => exact h.awaits hform
    | secondRead a => exact h.positionRead ⟨herrCode, hmode⟩ hpos hform.2.2.2 o a _
    | writeBack => exact h.positionDone ⟨herrCode, hmode⟩ hpos hzeros o
  | alone => exact InRange.ended ⟨h.registry, h.bitcnt, h.pos⟩ rfl

theorem InRange.raiseTransportError (h : InRange s) (j : Job) : Inv (raiseTransportError hw j s) := by
  refine InRange.ended ⟨?_, ?_, ?_⟩ (raiseTransportError_job hw j s) <;> unfold Machine.raiseTransportError <;>
    dsimp only <;> split <;> simp [h.registry, h.bitcnt, h.pos]

theorem inv_takeAnswer (h : Inv s) (a : Answer) : Inv (takeAnswer hw a s) := by
  have hrange := inRange_of_inv h
  obtain ⟨-, heq⟩ | ⟨j, -, -, heq⟩ | ⟨p, hjob, -, heq⟩ | ⟨p, r, hjob, -, heq⟩ := takeAnswer_cases hw s a
  · rwa [heq]
  · exact heq ▸ hrange.raiseTransportError j
  · exact heq ▸ hrange.configured (h.job _ hjob)
  · generalize TransportEvent.xfer (p.byteSent hw s.sh) r = e at heq
    have hafter : InRange (recordEvent e s) := ⟨h.registry, h.bitcnt, h.pos⟩
    exact heq ▸ hafter.transceived ((jobForm_congr rfl rfl rfl rfl rfl _).mpr (h.job _ hjob)) r

theorem inv_drain (h : Inv s) : Inv (drain hw s) :=
  drainQueue_induct hw (P := Inv) (fun _ a _ hs => inv_takeAnswer hs a) (fun _ q hs => inv_withInbox q hs) s.inbox s h

/-! ### Instructions -/

theorem inv_exec {i : Instr} {t : State} (h : Inv s) (ht : exec i s = .next t) : Inv t := by
  cases exec_meaning i with
  | reject hi => cases (hi s).symm.trans ht; exact inv_rejectWord h
  | command start hstart hi =>
    cases (hi s).symm.trans ht
    unfold runCommand
    split
    · exact inv_rejectWord h
    · exact inv_drain (hstart.inv h)
  | alone start hstart hi =>
    cases (hi s).symm.trans ht
    unfold runAlone
    split
    · exact h
    · exact inv_drain (hstart.inv h)
  | answer a hi => cases (hi s).symm.trans ht; exact inv_takeAnswer h a

end Sys2Proof.Machine

namespace Sys2Proof.Claims

open Sys2Proof.Machine

/-- Settles O15: no command runs, and every register is at its reset value. -/
theorem invAtReset : Obligations.InvAtReset := by
  unfold Obligations.InvAtReset
  exact inv_hardReset State.reset

/-- Settles O16: every answer leads from the form of one position to that of the next, and every command begins at one. -/
theorem stepKeepsInv : Obligations.StepKeepsInv := by
  unfold Obligations.StepKeepsInv
  intro s t h ht
  obtain ⟨-, rfl⟩ | ⟨rest, -, rfl⟩ | ⟨p, rest, i, -, -, hexec⟩ := step_cases ht
  · exact h
  · exact inv_hardReset _
  · exact inv_exec (inv_withInbox rest h) hexec

end Sys2Proof.Claims
end

section
/-! The sequencer neither reads nor writes the inbox: an answer that has come makes no difference before it is taken (log 1). -/

namespace Sys2Proof.Machine

/-- `s` with another inbox. -/
def State.withInbox (s : State) (q : List Input) : State := { s with inbox := q }

/-- `f` neither reads nor writes the inbox. -/
def InboxBlind (f : State → State) : Prop := ∀ s q, f (s.withInbox q) = (f s).withInbox q

@[simp] theorem withInbox_inbox (s : State) (q : List Input) : (s.withInbox q).inbox = q := rfl
@[simp] theorem withInbox_job (s : State) (q : List Input) : (s.withInbox q).job = s.job := rfl
@[simp] theorem withInbox_busy (s : State) (q : List Input) : (s.withInbox q).busy = s.busy := rfl
@[simp] theorem withInbox_withInbox (s : State) (q q' : List Input) : (s.withInbox q).withInbox q' = s.withInbox q' := rfl

theorem InboxBlind.inbox {f : State → State} (h : InboxBlind f) (s : State) : (f s).inbox = s.inbox := by
  have hself := congrArg State.inbox (h s s.inbox)
  exact hself

variable (cfg : Config)

theorem endEnumeration_inboxBlind (o : Owner) (st : Status) : InboxBlind (endEnumeration o st) := by
  cases o <;> exact fun _ _ => rfl

theorem nextPass_inboxBlind (o : Owner) : InboxBlind (nextPass o) := by
  intro s q
  cases hlz : s.lz with
  | none => rw [nextPass_end s o hlz, nextPass_end (s.withInbox q) o hlz, endEnumeration_inboxBlind]
  | some p => rw [nextPass_more s o p hlz, nextPass_more (s.withInbox q) o p hlz]; rfl

theorem passComplete_inboxBlind (o : Owner) : InboxBlind (passComplete cfg o) := by
  intro s q
  by_cases hmem : s.curId ∈ s.reg
  · rw [passComplete_known cfg s o hmem, passComplete_known cfg (s.withInbox q) o hmem, nextPass_inboxBlind]
  · by_cases hfull : cfg.regCapacity ≤ s.reg.length
    · rw [passComplete_full cfg s o hmem hfull, passComplete_full cfg (s.withInbox q) o hmem hfull,
        endEnumeration_inboxBlind]
    · rw [passComplete_new cfg s o hmem (by omega), passComplete_new cfg (s.withInbox q) o hmem (not_le.mp hfull)]
      exact nextPass_inboxBlind o { s with reg := Registry.append s.reg s.curId } q

theorem resetReturn_inboxBlind (k : ResetCaller) (ok : Bool) : InboxBlind (resetReturn k ok) := by
  cases k with
  | command => exact fun _ _ => rfl
  | init => cases ok <;> exact fun _ _ => rfl
  | pass o =>
    cases ok
    · exact endEnumeration_inboxBlind o .stFalse
    · exact fun _ _ => rfl

theorem resetClassified_inboxBlind (k : ResetCaller) (c : ResetClass) : InboxBlind (resetClassified k c) := by
  intro s q
  unfold resetClassified
  split
  · exact resetReturn_inboxBlind k true s q
  · next e _ => exact resetReturn_inboxBlind k false { s with errCode := e } q

theorem writeReturn_inboxBlind (k : WriteCaller) : InboxBlind (writeReturn k) := by
  cases k <;> exact fun _ _ => rfl

theorem writeSlotDone_inboxBlind (k : WriteCaller) : InboxBlind (writeSlotDone k) := by
  intro s q
  by_cases hmore : (s.bitcnt + 1#4).toNat < 8
  · rw [writeSlotDone_more s k hmore, writeSlotDone_more (s.withInbox q) k hmore]
    rfl
  · rw [writeSlotDone_last s k hmore, writeSlotDone_last (s.withInbox q) k hmore]
    exact writeReturn_inboxBlind k { s with sh := shiftOut s.sh, bitcnt := s.bitcnt + 1#4 } q

theorem readSlotDone_inboxBlind (t : Bool) : InboxBlind (readSlotDone t) := by
  intro s q
  by_cases hmore : (s.bitcnt + 1#4).toNat < 8
  · rw [readSlotDone_more s t hmore, readSlotDone_more (s.withInbox q) t hmore]
    rfl
  · rw [readSlotDone_last s t hmore, readSlotDone_last (s.withInbox q) t hmore]
    rfl

theorem positionRead_inboxBlind (o : Owner) (a b : Bool) : InboxBlind (positionRead o a b) := by
  intro s q
  unfold positionRead
  split
  · exact endEnumeration_inboxBlind o .stFalse { s with errCode := .noDevices } q
  · rfl

theorem positionDone_inboxBlind (o : Owner) : InboxBlind (positionDone cfg o) := by
  intro s q
  by_cases hmore : (s.pos + 1#7).toNat < 64
  · rw [positionDone_more cfg s o hmore, positionDone_more cfg (s.withInbox q) o hmore]
    rfl
  · rw [positionDone_last cfg s o hmore, positionDone_last cfg (s.withInbox q) o hmore]
    exact passComplete_inboxBlind cfg o { s with pos := s.pos + 1#7 } q

theorem configured_inboxBlind (p : ConfigPoint) : InboxBlind (configured cfg p) := by
  cases p with
  | resetEntry | alone => exact fun _ _ => rfl
  | resetExit k r => exact resetClassified_inboxBlind k _

theorem transceived_inboxBlind (p : TransceivePoint) (r : Capture) : InboxBlind (transceived cfg p r) := by
  cases p with
  | resetPulse | alone => exact fun _ _ => rfl
  | writeSlot k => exact writeSlotDone_inboxBlind k
  | readSlot => exact readSlotDone_inboxBlind _
  | search o slot =>
    cases slot with
    | firstRead => exact fun _ _ => rfl
    | secondRead a => exact positionRead_inboxBlind o a _
    | writeBack => exact positionDone_inboxBlind cfg o

theorem raiseTransportError_inboxBlind (j : Job) : InboxBlind (raiseTransportError cfg j) := by
  intro s q
  unfold raiseTransportError
  dsimp only
  cases j.isAlone <;> cases j <;> rfl

/-- An answer is taken the same whatever inputs are behind it. -/
theorem takeAnswer_inboxBlind (a : Answer) : InboxBlind (takeAnswer cfg a) := by
  intro s q
  cases hjob : s.job with
  | none => rw [takeAnswer_idle cfg s a hjob, takeAnswer_idle cfg (s.withInbox q) a hjob]
  | some j =>
    cases j with
    | configuring p =>
      rw [takeAnswer_configuring cfg s a p hjob, takeAnswer_configuring cfg (s.withInbox q) a p hjob]
      cases a with
      | failure => exact raiseTransportError_inboxBlind cfg _ s q
      | captured | nothingOrDone => exact configured_inboxBlind cfg p (configureDone p.operand s) q
    | transceiving p =>
      rw [takeAnswer_transceiving cfg s a p hjob, takeAnswer_transceiving cfg (s.withInbox q) a p hjob]
      cases a with
      | failure => exact raiseTransportError_inboxBlind cfg _ s q
      | captured | nothingOrDone => exact transceived_inboxBlind cfg p _ (recordEvent _ s) q

@[simp] theorem takeAnswer_inbox (a : Answer) (s : State) : (takeAnswer cfg a s).inbox = s.inbox :=
  (takeAnswer_inboxBlind cfg a).inbox s

theorem HostStart.inboxBlind {start : State → State} (h : HostStart start) : InboxBlind start := by
  cases h <;> exact fun _ _ => rfl

theorem LoneStart.inboxBlind {start : State → State} (h : LoneStart start) : InboxBlind start := by
  cases h <;> exact fun _ _ => rfl

end Sys2Proof.Machine
end

section
/-! Answers taken in later steps (log 1), and what can be left in the inbox. -/

namespace Sys2Proof.Machine

open Sys2Proof.Claims Sys2Proof.Safety

/-! ### One step for each answer -/

theorem run_succ {s t : State} (h : step s = .next t) (k : Nat) : core.run (k + 1) s = core.run k t := by
  simp only [Host.Core.run, core, h]

/-- Answers that are drained at once are taken in as many steps, as far as requests are outstanding. -/
theorem run_answers (ws : List AnswerWord) : ∀ s : State,
    ∃ k ≤ ws.length, core.run k (s.withInbox (answers ws)) = .next (drainQueue hw (answers ws) s) := by
  induction ws with
  | nil => exact fun s => ⟨0, le_rfl, rfl⟩
  | cons w ws ih =>
    intro s
    by_cases hbusy : s.busy = true
    · obtain ⟨k, hk, hrun⟩ := ih (takeAnswer hw (answerOfWord w) s)
      have hstep : step (s.withInbox (answers (w :: ws))) =
          .next ((takeAnswer hw (answerOfWord w) s).withInbox (answers ws)) := by
        rw [← takeAnswer_inboxBlind]
        exact step_answer rfl
      refine ⟨k + 1, Nat.succ_le_succ hk, ?_⟩
      rw [run_succ hstep, hrun]
      exact congrArg _ (drainQueue_answer hw s w (answers ws) hbusy).symm
    · refine ⟨0, Nat.zero_le _, ?_⟩
      rw [drainQueue_idle hw s _ (by simpa using hbusy)]
      rfl

/-- Answers that stand behind the word that has `f` run come to the same as these answers when they come after it. -/
def TakesLate (ws : List AnswerWord) (s : State) (f : State → State) : Prop :=
  ∃ k ≤ ws.length, core.run k ((f (s.withInbox [])).withInbox (answers ws)) = .next (f (s.withInbox (answers ws)))

variable {ws : List AnswerWord} {f g start : State → State} {s : State}

/-- An operation that takes no answers. -/
theorem InboxBlind.takesLate (h : InboxBlind f) : TakesLate ws s f := by
  refine ⟨0, Nat.zero_le _, ?_⟩
  rw [h, h]
  rfl

theorem takesLate_drain (h : InboxBlind start) : TakesLate ws s fun s => drain hw (start s) := by
  obtain ⟨k, hk, hrun⟩ := run_answers ws (start (s.withInbox (answers ws)))
  refine ⟨k, hk, ?_⟩
  dsimp only [drain]
  rw [h.inbox, h.inbox]
  simp only [h s, withInbox_inbox, drainQueue_nil] at hrun ⊢
  exact hrun

/-- Of two operations the one that a test chooses which does not look at the inbox. -/
theorem TakesLate.ite {c : State → Bool} (hc : ∀ q, c (s.withInbox q) = c s) (hf : TakesLate ws s f)
    (hg : TakesLate ws s g) : TakesLate ws s fun s => if c s then f s else g s := by
  unfold TakesLate
  simp only [hc]
  split_ifs
  · exact hf
  · exact hg

theorem exec_takesLate (ws : List AnswerWord) (s : State) (i : Instr) :
    ∃ f, TakesLate ws s f ∧ ∀ s, exec i s = .next (f s) := by
  cases exec_meaning i with
  | reject hi => exact ⟨_, InboxBlind.takesLate fun _ _ => rfl, hi⟩
  | command start hstart hi =>
    exact ⟨_, .ite (fun _ => rfl) (InboxBlind.takesLate fun _ _ => rfl) (takesLate_drain hstart.inboxBlind), hi⟩
  | alone start hstart hi =>
    exact ⟨_, .ite (fun _ => rfl) (InboxBlind.takesLate fun _ _ => rfl) (takesLate_drain hstart.inboxBlind), hi⟩
  | answer a hi => exact ⟨_, (takeAnswer_inboxBlind hw a).takesLate, hi⟩

/-! ### What is left in the inbox -/

theorem drain_inbox_subset (cfg : Config) (s : State) : (drain cfg s).inbox ⊆ s.inbox := by
  obtain ⟨taken, htaken⟩ := drainQueue_taken cfg s.inbox s
  exact htaken ▸ List.subset_append_right ..

/-- Every instruction has a next state, in which no input stands that did not stand in the inbox before. -/
theorem exec_next (i : Instr) (s : State) : ∃ t, exec i s = .next t ∧ t.inbox ⊆ s.inbox := by
  cases exec_meaning i with
  | reject hi => exact ⟨_, hi s, List.Subset.refl _⟩
  | command start hstart hi =>
    refine ⟨_, hi s, ?_⟩
    unfold runCommand
    split
    · exact List.Subset.refl _
    · exact hstart.inbox s ▸ drain_inbox_subset hw (start s)
  | alone start hstart hi =>
    refine ⟨_, hi s, ?_⟩
    unfold runAlone
    split
    · exact List.Subset.refl _
    · exact hstart.inboxBlind.inbox s ▸ drain_inbox_subset hw (start s)
  | answer a hi => exact ⟨_, hi s, by simp⟩

/-- R82, R83: the words of the host port and of the answer channel all spell a row. -/
theorem decode_of_fromOutside {p : PortWord} (h : fromOutside (.word p) = true) : ∃ i, decode p = .ok i := by
  cases p with
  | host | answer => exact ⟨_, rfl⟩
  | call | romByte => cases h

/-- A step on a word that decodes runs the instruction, the word taken (R30). -/
theorem step_word {s : State} {p : PortWord} {rest : List Input} {i : Instr} (h : s.inbox = .word p :: rest)
    (hp : decode p = .ok i) : step s = exec i { s with inbox := rest } := by
  simp only [step, fetch, h, hp]

end Sys2Proof.Machine

namespace Sys2Proof.Claims

open Sys2Proof.Machine Sys2Proof.Safety

/-- Settles O13: the words of the hardware's outside all decode, and no instruction ends in a fault or a refusal. -/
theorem outsideNeverStopsTheMachine : Obligations.OutsideNeverStopsTheMachine := by
  unfold Obligations.OutsideNeverStopsTheMachine
  intro s hs
  cases hinbox : s.inbox with
  | nil => exact ⟨s, step_emptyInbox hinbox, hs⟩
  | cons x rest =>
    have hrest : ∀ y ∈ rest, fromOutside y = true := fun y hy => hs y (hinbox ▸ List.mem_cons_of_mem x hy)
    cases x with
    | hardReset => exact ⟨_, step_hardReset hinbox, hrest⟩
    | word p =>
      obtain ⟨i, hi⟩ := decode_of_fromOutside (hs (.word p) (hinbox ▸ List.mem_cons_self))
      obtain ⟨t, ht, hsub⟩ := exec_next i { s with inbox := rest }
      exact ⟨t, (step_word hinbox hi).trans ht, fun y hy => hrest y (hsub hy)⟩

/-- Settles O14: an instruction takes an answer from the inbox as a later step takes it. -/
theorem lateAnswersMakeNoDifference : Obligations.LateAnswersMakeNoDifference := by
  unfold Obligations.LateAnswersMakeNoDifference
  intro s w ws hinbox
  obtain ⟨f, ⟨k, hk, hrun⟩, hexec⟩ := exec_takesLate ws s (decodeHost w)
  exact ⟨_, _, k, (step_host hinbox).trans (hexec _), (step_host rfl).trans (hexec _), hk, hrun⟩

/-- Settles O6: the reserved rows have one meaning, the rejected word. -/
theorem reservedRowsReject : Obligations.ReservedRowsReject := by
  unfold Obligations.ReservedRowsReject
  exact fun _ s hi => exec_of_isReserved hi s

/-- Settles O8, from the two things a step does: it takes the word, and it runs what the word decodes to. -/
theorem stepRunsDecoded : Obligations.StepRunsDecoded := by
  unfold Obligations.StepRunsDecoded
  exact fun _ _ _ _ hinbox hp => step_word hinbox hp

/-- Settles O10: the reset writes every field but the three of the outside. -/
theorem hardResetKeepsTheOutside : Obligations.HardResetKeepsTheOutside := by
  unfold Obligations.HardResetKeepsTheOutside
  exact fun _ _ hinbox => step_hardReset hinbox

end Sys2Proof.Claims
end

section
/-! The registry as bytes, and an identifier as its bytes (20_memory.md R50, R58; 00_scope.md R10). -/

namespace Sys2Proof

/-- Two identifiers with the same bytes are the same. -/
theorem DeviceId.ext_byte {a b : DeviceId} (h : ∀ j < 8, DeviceId.byte a j = DeviceId.byte b j) : a = b := by
  refine BitVec.eq_of_getLsbD_eq fun i hi => ?_
  have hbyte := congrArg (·.getLsbD (i % 8)) (h (i / 8) (by omega))
  have hmod : i % 8 < 8 := Nat.mod_lt _ (by omega)
  rwa [DeviceId.getLsbD_byte a _ _ hmod, DeviceId.getLsbD_byte b _ _ hmod, Nat.div_add_mod] at hbyte

namespace Machine

variable {reg : List DeviceId} {i : Nat} {id : DeviceId}

theorem memByte_of_le {addr : Nat} (h : 8 * reg.length ≤ addr) : Registry.memByte reg addr = none := by
  have hentry : reg.length ≤ addr / 8 := by omega
  simp [Registry.memByte, List.getElem?_eq_none hentry]

/-- The last `n` bytes of an entry from byte `j` on. -/
theorem memRead_of_entry (h : reg[i]? = some id) (n : Nat) :
    ∀ j, j + n ≤ 8 → Registry.memRead reg (8 * i + j) n = some (id.extractLsb' (8 * j) (8 * n)) := by
  induction n with
  | zero => intro j _; exact congrArg some (BitVec.eq_of_toNat_eq (by simp))
  | succ n ih =>
    intro j hj
    have hlow := memByte_of_entry reg i j id h (by omega)
    have hhigh := ih (j + 1) (by omega)
    rw [← Nat.add_assoc] at hhigh
    simp only [Registry.memRead, hlow, hhigh]
    exact congrArg some (BitVec.extractLsb'_append_extractLsb'_eq_extractLsb' (by omega))

theorem memRead_entry (h : reg[i]? = some id) : Registry.memRead reg (8 * i) 8 = some id :=
  (memRead_of_entry h 8 0 le_rfl).trans (congrArg some BitVec.extractLsb'_eq_self)

/-- The append writes to no other address than those of the new entry. -/
theorem memByte_append {addr : Nat} (h : addr < 8 * reg.length ∨ 8 * reg.length + 8 ≤ addr) :
    Registry.memByte (Registry.append reg id) addr = Registry.memByte reg addr := by
  obtain hlt | hge := h
  · have hentry : addr / 8 < reg.length := by omega
    simp only [Registry.memByte, append_getElem?_lt reg id _ hentry]
  · rw [memByte_of_le (by simp; omega), memByte_of_le (by omega)]

end Machine

end Sys2Proof
end

section
/-! The words of script lines and the two pseudo-instructions (30_encoding.md R86, R87). -/

namespace Sys2Proof.Machine

open Sys2Proof.Claims

/-- `(OPC << 8) | operand` is the word of the two fields. -/
theorem scriptWord_eq (opc : Byte) {n : Nat} (h : n < 256) :
    opc.zeroExtend 16 <<< 8 ||| BitVec.ofNat 16 n = opc ++ BitVec.ofNat 8 n := by
  have hlow : BitVec.ofNat 16 n = (BitVec.ofNat 8 n).setWidth' (by omega) :=
    BitVec.eq_of_toNat_eq (by simp; omega)
  rw [BitVec.append_def, BitVec.shiftLeftZeroExtend_eq, hlow]

variable {name : String} {opc : Byte}

theorem assembleLine_of_lt (hname : opcOfMnemonic name = some opc) {n : Nat} (h : n < 256) :
    assembleLine name (some n) = some (opc ++ BitVec.ofNat 8 n) := by
  simp only [assembleLine, hname, Option.getD_some, if_pos h, scriptWord_eq opc h]

theorem assembleLine_of_le (hname : opcOfMnemonic name = some opc) {n : Nat} (h : 256 ≤ n) :
    assembleLine name (some n) = none := by
  simp only [assembleLine, hname, Option.getD_some, if_neg h.not_gt]

/-- R86: the operand is 0 when none is written. -/
theorem assembleLine_none (name : String) : assembleLine name none = assembleLine name (some 0) := rfl

theorem opcOfMnemonic_scriptRow {row : List String × Byte} (hrow : row ∈ scriptRows) (hname : name ∈ row.1) :
    opcOfMnemonic name = some row.2 := by
  fin_cases hrow <;> fin_cases hname <;> rfl

/-- The eight bytes of a list are the bytes of its identifier. -/
theorem byte_idOfBytes (bs : List Byte) : ∀ n, n < 8 → ∀ h : n < bs.length, DeviceId.byte (idOfBytes bs) n = bs[n] := by
  induction bs with
  | nil => intro n _ h; cases h
  | cons b rest ih =>
    intro n hn h
    refine BitVec.eq_of_getLsbD_eq fun i hi => ?_
    rw [DeviceId.getLsbD_byte _ _ _ hi, idOfBytes, BitVec.getLsbD_or, BitVec.getLsbD_shiftLeft]
    cases n with
    | zero => simp [hi, show i < 64 by omega]
    | succ n =>
      have hbyte := congrArg (·.getLsbD i) (ih n (by omega) (Nat.lt_of_succ_lt_succ h))
      rw [DeviceId.getLsbD_byte _ _ _ hi] at hbyte
      have hlow : ¬ 8 * (n + 1) + i < 8 := by omega
      have hshift : 8 * (n + 1) + i - 8 = 8 * n + i := by omega
      simp [hlow, hshift, hbyte, show 8 * (n + 1) + i < 64 by omega, BitVec.getLsbD_of_ge b (8 * (n + 1) + i) (by omega)]

theorem idOfBytes_bytes (id : DeviceId) : idOfBytes ((List.range 8).map fun n => DeviceId.byte id n) = id := by
  refine DeviceId.ext_byte fun j hj => ?_
  rw [byte_idOfBytes _ j hj (by simpa using hj)]
  simp

end Sys2Proof.Machine

namespace Sys2Proof.Claims

open Sys2Proof.Machine

/-- Settles O56, from the read of any number of bytes of one entry. -/
theorem registryByteSpace : Obligations.RegistryByteSpace := by
  unfold Obligations.RegistryByteSpace
  intro reg
  exact ⟨fun i j h hj => memByte_of_entry reg i j _ (List.getElem?_eq_getElem h) hj,
    fun i h => memRead_entry (List.getElem?_eq_getElem h), fun _ h => memByte_of_le h⟩

/-- Settles O57: the new entry is read at its place, and the entries there are stay at theirs. -/
theorem appendWritesOneEntry : Obligations.AppendWritesOneEntry := by
  unfold Obligations.AppendWritesOneEntry
  exact fun reg id => ⟨memRead_entry (append_getElem?_eq reg id), fun _ h => memByte_append h⟩

/-- Settles O7: every mnemonic has its `OPC`, and the rest is the two fields of a word and the eight bytes of an identifier. -/
theorem scriptForms : Obligations.ScriptForms := by
  unfold Obligations.ScriptForms
  refine ⟨fun row hrow name hname => ?_, rfl, fun bs hbs n h => byte_idOfBytes bs n (hbs ▸ h) h, fun id => rfl,
    idOfBytes_bytes⟩
  have hopc := opcOfMnemonic_scriptRow hrow hname
  exact ⟨(assembleLine_none name).trans (assembleLine_of_lt hopc (by omega)), fun _ h => assembleLine_of_lt hopc h,
    fun _ h => assembleLine_of_le hopc h⟩

end Sys2Proof.Claims
end

section
/-! How a command ends, read off the spec's pseudocode: what its procedures leave when they return, and when they raise a
TransportError. -/

namespace Sys2Proof.Machine

open Sys2Proof.Claims Sys2Proof.Safety

/-! ### An ended command is an ended run of the pseudocode -/

/-- Every inbox is the answers at its head and what stands behind them. -/
theorem exists_answers_append (q : List Input) :
    ∃ ws rest, q = answers ws ++ rest ∧ ∀ w more, rest ≠ .word (.answer w) :: more := by
  induction q with
  | nil => exact ⟨[], [], rfl, nofun⟩
  | cons x q ih =>
    by_cases hx : ∃ w, x = .word (.answer w)
    · obtain ⟨w, rfl⟩ := hx
      obtain ⟨ws, rest, rfl, hrest⟩ := ih
      exact ⟨w :: ws, rest, rfl, hrest⟩
    · exact ⟨[], x :: q, rfl, fun w more h => hx ⟨w, (List.cons.inj h).1⟩⟩

theorem drainQueue_answered (cfg : Config) {t : State} (hjob : t.job = none) (r : Response) (q : List Input) :
    drainQueue cfg q (answered r t) = { t with inbox := q, responses := t.responses ++ [r] } := by
  rw [drainQueue_idle cfg _ q rfl, answered, ← hjob]

/-- How a command has ended: with the response `r` of its procedure, or with a TransportError. -/
inductive EndsWith (r : Response) (t : State) : Ran Response → Prop
  | done (q : List AnswerWord) : EndsWith r t (.done r t q)
  | raised (q : List AnswerWord) (hr : r = bare .xport) : EndsWith r t (.raised t q)

/-- A command that has ended left what the pseudocode left on the answers that it took. -/
theorem exec_ended {i : Instr} {p : Proc Response} {s u : State} (hp : Pseudo.command hw i = some p) (hjob : s.job = none)
    (hexec : exec i s = .next u) (hended : u.job = none) :
    ∃ ws r t q, EndsWith r t (p s ws) ∧ u = { t with inbox := q, responses := s.responses ++ [r] } := by
  obtain ⟨start, hstart, hstartExec, hstep⟩ := command_inStep hp
  obtain ⟨ws, rest, hinbox, hrest⟩ := exists_answers_append s.inbox
  have hsync := hstep s ws
  generalize hR : p s ws = R at hsync
  cases hsync with
  | @done r t q hreach hsame =>
    have hu := exec_of_reaches hstart hstartExec hjob hinbox hreach
    rw [drainQueue_answered hw (hsame.job.trans hjob), hsame.responses] at hu
    cases hexec.symm.trans hu
    exact ⟨ws, r, t, _, hR ▸ .done q, rfl⟩
  | @raised t q hreach hsame =>
    have hu := exec_of_reaches hstart hstartExec hjob hinbox hreach
    rw [show respond .xport 0#64 [] t = answered (bare .xport) t from rfl,
      drainQueue_answered hw (hsame.job.trans hjob), hsame.responses] at hu
    cases hexec.symm.trans hu
    exact ⟨ws, _, t, _, hR ▸ .raised q rfl, rfl⟩
  | waiting j hrequest hreach =>
    have hu := exec_of_reaches hstart hstartExec hjob hinbox hreach
    rw [show answers [] ++ rest = rest from rfl, drainQueue_noAnswer hw _ rest hrest] at hu
    cases hexec.symm.trans hu
    cases hended

/-! ### What holds where a procedure ends -/

/-- `Q` holds where a run returns, and `E` where it raises a TransportError. -/
def EndsIn {α : Type} (Q : α → State → Prop) (E : State → Prop) : Ran α → Prop
  | .done a t _ => Q a t
  | .raised t _ => E t
  | .waiting _ _ => True

/-- From every state in which `P` holds, `Q` holds where the procedure returns, and `E` where it raises. -/
def Ensures {α : Type} (P : State → Prop) (p : Proc α) (Q : α → State → Prop) (E : State → Prop) : Prop :=
  ∀ s ws, P s → EndsIn Q E (p s ws)

namespace Ensures

variable {α β : Type} {P : State → Prop} {Q : α → State → Prop} {R : β → State → Prop} {E : State → Prop}

theorem of_pre {p : Proc α} {P' : State → Prop} (h : Ensures P' p Q E) (hpre : ∀ s, P s → P' s) : Ensures P p Q E :=
  fun s ws hs => h s ws (hpre s hs)

theorem ret {a : α} (h : ∀ s, P s → Q a s) : Ensures P (Pseudo.ret a) Q E := fun s _ hs => h s hs

theorem andThen {p : Proc α} {f : α → Proc β} (hp : Ensures P p Q E) (hf : ∀ a, Ensures (Q a) (f a) R E) :
    Ensures P (Pseudo.andThen p f) R E := by
  intro s ws hs
  have hends := hp s ws hs
  unfold Pseudo.andThen
  generalize p s ws = ran at hends ⊢
  cases ran with
  | done a t q => exact hf a t q hends
  | raised => exact hends
  | waiting => trivial

theorem read {g : State → α} {f : α → Proc β} (h : ∀ a, Ensures (fun s => P s ∧ g s = a) (f a) R E) :
    Ensures P (Pseudo.read g f) R E := fun s ws hs => h (g s) s ws ⟨hs, rfl⟩

/-- Written registers, and then what follows. -/
theorem write {f : State → State} {g : Unit → Proc β} {P' : State → Prop} (hf : ∀ s, P s → P' (f s))
    (hg : Ensures P' (g ()) R E) : Ensures P (Pseudo.andThen (Pseudo.write f) g) R E :=
  fun s ws hs => hg (f s) ws (hf s hs)

theorem configure {m : ConfigMode} {R : Unit → State → Prop} (hdone : ∀ s, P s → R () (configureDone m s))
    (hfail : ∀ s, P s → E (requestFailed (.configure m) s)) : Ensures P (Pseudo.configure m) R E := by
  intro s ws hs
  unfold Pseudo.configure
  cases ws with
  | nil => trivial
  | cons w q =>
    dsimp only
    cases answerOfWord w with
    | failure => exact hfail s hs
    | captured | nothingOrDone => exact hdone s hs

theorem transceive {b : Byte} {R : Capture → State → Prop} (hdone : ∀ s r, P s → R r (recordEvent (.xfer b r) s))
    (hfail : ∀ s, P s → E (requestFailed (.transceive b) s)) : Ensures P (Pseudo.transceive b) R E := by
  intro s ws hs
  unfold Pseudo.transceive
  cases ws with
  | nil => trivial
  | cons w q =>
    dsimp only
    cases answerOfWord w with
    | failure => exact hfail s hs
    | captured | nothingOrDone => exact hdone s _ hs

theorem thenRespond {p : Proc α} {answer : α → State → Response} (hp : Ensures P p Q E) :
    Ensures P (Pseudo.thenRespond p answer) (fun r t => ∃ a, r = answer a t ∧ Q a t) E :=
  hp.andThen fun a => .read fun _ => .ret fun _ h => ⟨a, h.2.symm, h.1⟩

end Ensures

/-- The end of a command, from what its procedure ensures. -/
theorem exec_ended_ensures {i : Instr} {p : Proc Response} {s u : State} {Q : Response → State → Prop} {E : State → Prop}
    (hp : Pseudo.command hw i = some p) (hensures : Ensures (fun _ => True) p Q E) (hjob : s.job = none)
    (hexec : exec i s = .next u) (hended : u.job = none) :
    ∃ r t q, u = { t with inbox := q, responses := s.responses ++ [r] } ∧ (Q r t ∨ r = bare .xport ∧ E t) := by
  obtain ⟨ws, r, t, q, hends, hu⟩ := exec_ended hp hjob hexec hended
  have hin := hensures s ws trivial
  generalize p s ws = ran at hends hin
  cases hends with
  | done => exact ⟨r, t, q, hu, .inl hin⟩
  | raised _ hr => exact ⟨r, t, q, hu, .inr ⟨hr, hin⟩⟩

/-! ### The procedures, by what they leave of the registry and the error record -/

section Procedures

variable (cfg : Config) (φ : List DeviceId → Prop)

/-- The registry satisfies `φ`, and no error is recorded. -/
def Clean (s : State) : Prop := φ s.reg ∧ s.errCode = .noError

/-- The registry satisfies `φ`, and an error is recorded if and only if the procedure returned `false`. -/
def RecordsOutcome (ok : Bool) (s : State) : Prop := φ s.reg ∧ (ok = true ↔ s.errCode = .noError)

theorem reset_ensures :
    Ensures (fun s => φ s.reg) (Pseudo.reset cfg) (fun ok t => RecordsOutcome φ ok t ∧ t.mode = .dataMode)
      (Clean φ) := by
  refine .write (P' := Clean φ) (fun s hs => ⟨hs, rfl⟩) ?_
  refine .andThen (Q := fun _ => Clean φ) (.configure (fun s hs => hs) fun s hs => hs) fun _ => ?_
  refine .andThen (Q := fun _ => Clean φ) (.transceive (fun s _ hs => hs) fun s hs => hs) fun r => ?_
  refine .andThen (Q := fun _ t => Clean φ t ∧ t.mode = .dataMode)
    (.configure (fun s hs => ⟨hs, rfl⟩) fun s hs => hs) fun _ => ?_
  cases cfg.classifyReset r with
  | presence => exact .ret fun s hs => ⟨⟨hs.1.1, by simp [hs.1.2]⟩, hs.2⟩
  | noDevices | noBus =>
    exact .write (P' := fun t => RecordsOutcome φ false t ∧ t.mode = .dataMode) (fun s hs => ⟨⟨hs.1.1, nofun, nofun⟩, hs.2⟩)
      (.ret fun s hs => hs)

theorem writeBit_ensures (v : Bool) : Ensures (Clean φ) (Pseudo.writeBit cfg v) (fun _ => Clean φ) (Clean φ) :=
  .andThen (Q := fun _ => Clean φ) (.transceive (fun _ _ hs => hs) fun _ hs => hs) fun _ => .ret fun _ hs => hs

theorem readBit_ensures : Ensures (Clean φ) (Pseudo.readBit cfg) (fun _ => Clean φ) (Clean φ) :=
  .andThen (Q := fun _ => Clean φ) (.transceive (fun _ _ hs => hs) fun _ hs => hs) fun _ => .ret fun _ hs => hs

theorem writeSlots_ensures (n : Nat) :
    Ensures (Clean φ) (Pseudo.writeSlots cfg n) (fun _ => Clean φ) (Clean φ) := by
  induction n with
  | zero => exact .ret fun _ hs => hs
  | succ n ih =>
    refine .read fun v => .of_pre (P' := Clean φ) ?_ fun s hs => hs.1
    exact (writeBit_ensures cfg φ v).andThen fun _ => .write (P' := Clean φ) (fun _ hs => hs) ih

theorem writeByte_ensures (v : Byte) :
    Ensures (Clean φ) (Pseudo.writeByte cfg v) (fun _ => Clean φ) (Clean φ) :=
  .write (P' := Clean φ) (fun _ hs => hs) (writeSlots_ensures cfg φ 8)

/-- The readback (1,1) records an error, and nothing else in a search pass does (R145). -/
theorem positions_ensures (n : Nat) :
    Ensures (Clean φ) (Pseudo.positions cfg n) (RecordsOutcome φ) (Clean φ) := by
  induction n with
  | zero => exact .ret fun s hs => ⟨hs.1, by simp [hs.2]⟩
  | succ n ih =>
    refine (readBit_ensures cfg φ).andThen fun a => (readBit_ensures cfg φ).andThen fun b => ?_
    split
    · exact .write (P' := RecordsOutcome φ false) (fun s hs => ⟨hs.1, nofun, nofun⟩) (.ret fun _ hs => hs)
    · refine .read fun d => .write (P' := Clean φ) (fun s hs => ?_) ?_
      · split <;> exact hs.1
      · refine .write (P' := Clean φ) (fun _ hs => hs) ((writeBit_ensures cfg φ d).andThen fun _ => ?_)
        exact .write (P' := Clean φ) (fun _ hs => hs) ih

theorem searchPass_ensures :
    Ensures (fun s => φ s.reg) (Pseudo.searchPass cfg) (RecordsOutcome φ) (Clean φ) := by
  refine (reset_ensures cfg φ).andThen fun ok => ?_
  cases ok with
  | false => exact .ret fun s hs => hs.1
  | true =>
    refine .of_pre (P' := Clean φ) ?_ fun s hs => ⟨hs.1.1, hs.1.2.mp rfl⟩
    refine (writeByte_ensures cfg φ romSearchByte).andThen fun _ => ?_
    exact .write (P' := Clean φ) (fun _ hs => hs) (positions_ensures cfg φ 64)

/-- The append keeps the form of the registry; it is refused only when the registry is full (R147, R149). -/
theorem store_ensures :
    Ensures (Clean (registryForm cfg)) (Pseudo.store cfg)
      (fun stored t => Clean (registryForm cfg) t ∧ (stored = false → t.reg.length = cfg.regCapacity))
      (Clean (registryForm cfg)) := by
  intro s ws hs
  rw [Pseudo.store, Pseudo.read_apply]
  by_cases hmem : s.curId ∈ s.reg
  · rw [if_pos hmem]
    exact ⟨hs, nofun⟩
  · rw [if_neg hmem]
    by_cases hfull : cfg.regCapacity ≤ s.reg.length
    · rw [if_pos hfull]
      exact ⟨hs, fun _ => le_antisymm hs.1.2 hfull⟩
    · rw [if_neg hfull]
      exact ⟨⟨append_registryForm cfg s.reg s.curId hs.1 hmem (by omega), hs.2⟩, nofun⟩

/-- What an ending of an enumeration says of the registry and the error record (R146, R149, R150). -/
structure EndingRecords (e : Pseudo.Ending) (t : State) : Prop where
  registry : registryForm cfg t.reg
  aborted : e = .aborted ↔ t.errCode ≠ .noError
  overflow : e = .overflow → t.reg.length = cfg.regCapacity

theorem passes_ensures (rounds : Nat) :
    Ensures (fun s => registryForm cfg s.reg) (Pseudo.passes cfg rounds) (EndingRecords cfg) (Clean (registryForm cfg)) := by
  induction rounds with
  | zero => exact fun _ _ _ => trivial
  | succ rounds ih =>
    refine (searchPass_ensures cfg (registryForm cfg)).andThen fun complete => ?_
    cases complete with
    | false => exact .ret fun s hs => ⟨hs.1, by simpa using hs.2, nofun⟩
    | true =>
      refine .of_pre (P' := Clean (registryForm cfg)) ?_ fun s hs => ⟨hs.1, hs.2.mp rfl⟩
      refine (store_ensures cfg).andThen fun stored => ?_
      cases stored with
      | false => exact .ret fun s hs => ⟨hs.1.1, by simp [hs.1.2], fun _ => hs.2 rfl⟩
      | true =>
        rw [if_pos rfl]
        refine .read fun lz => ?_
        cases lz with
        | none => exact .ret fun s hs => ⟨hs.1.1.1, by simp [hs.1.1.2], nofun⟩
        | some p => exact .write (P' := fun s => registryForm cfg s.reg) (fun s hs => hs.1.1.1) ih

theorem discover_ensures :
    Ensures (fun _ => True) (Pseudo.discover cfg) (EndingRecords cfg) (Clean (registryForm cfg)) :=
  .write (P' := fun s => registryForm cfg s.reg) (fun _ _ => empty_registryForm cfg)
    fun s ws hs => passes_ensures cfg (ws.length + 1) s ws hs

end Procedures

end Sys2Proof.Machine

namespace Sys2Proof.Claims

open Sys2Proof.Machine Sys2Proof.Safety

/-- Settles O41: the sequencer and the pseudocode, in step, come to the same end. -/
theorem commandsFollowPseudocode : Obligations.CommandsFollowPseudocode := by
  unfold Obligations.CommandsFollowPseudocode
  intro i p s ws rest hp hjob hinbox
  obtain ⟨start, hstart, hexec, hstep⟩ := command_inStep hp
  have hsync := hstep s ws
  generalize p s ws = R at hsync
  cases hsync with
  | done hreach hsame =>
    refine (exec_of_reaches hstart hexec hjob hinbox hreach).trans (congrArg _ ?_)
    exact drainQueue_answered hw (hsame.job.trans hjob) _ _
  | raised hreach hsame =>
    refine (exec_of_reaches hstart hexec hjob hinbox hreach).trans (congrArg _ ?_)
    exact drainQueue_answered hw (hsame.job.trans hjob) (bare .xport) _
  | waiting => trivial

/-- Settles O39, by the endings of the pseudocode. -/
theorem discoverEndings : Obligations.DiscoverEndings := by
  unfold Obligations.DiscoverEndings
  intro arg s u hjob hexec hended
  obtain ⟨r, t, q, rfl, ⟨e, rfl, hend⟩ | ⟨rfl, hclean⟩⟩ :=
    exec_ended_ensures (i := .discover arg) rfl (discover_ensures hw).thenRespond hjob hexec hended
  · refine ⟨hend.registry.1, hend.registry.2, ?_⟩
    cases e with
    | complete => exact .inl ⟨by simpa using hend.aborted, rfl⟩
    | overflow => exact .inr (.inl ⟨by simpa using hend.aborted, hend.overflow rfl, rfl⟩)
    | aborted => exact .inr (.inr (.inl ⟨hend.aborted.mp rfl, rfl⟩))
  · exact ⟨hclean.1.1, hclean.1.2, .inr (.inr (.inr ⟨hclean.2, rfl⟩))⟩

/-- Settles O40, by the endings of the pseudocode. -/
theorem resetStatusMatchesErrorRecord : Obligations.ResetStatusMatchesErrorRecord := by
  unfold Obligations.ResetStatusMatchesErrorRecord
  intro arg s u hjob hexec hended
  obtain ⟨r, t, q, rfl, ⟨ok, rfl, ⟨-, hrecord⟩, hmode⟩ | ⟨rfl, -, herr⟩⟩ :=
    exec_ended_ensures (i := .reset arg) rfl (reset_ensures hw fun _ => True).thenRespond hjob hexec hended
  · refine ⟨_, rfl, rfl, rfl, ?_⟩
    cases ok with
    | true => exact .inl ⟨rfl, hrecord.mp rfl, hmode⟩
    | false =>
      refine .inr (.inl ⟨rfl, ?_, hmode⟩)
      cases herr : t.errCode <;> simp [herr] at hrecord ⊢
  · exact ⟨_, rfl, rfl, rfl, .inr (.inr ⟨rfl, herr⟩)⟩

end Sys2Proof.Claims
end

section
/-! A search pass on one device (43_rom_search.md R142): at every wire position the participants agree, so that the pass finds
the bits of the identifier and records no zero. -/

namespace Sys2Proof.Machine

open Sys2Proof.Claims Sys2Proof.Safety

/-- The answers `ps` agree with `id` from wire position `n` on. -/
def AgreesFrom (id : DeviceId) (n : Nat) (ps : List PositionAnswers) : Prop :=
  ∀ k (h : k < ps.length), readsOne ps[k].first = DeviceId.wireBit id (n + k) ∧
    readsOne ps[k].second = !DeviceId.wireBit id (n + k)

variable {id : DeviceId} {n : Nat} {p : PositionAnswers} {ps : List PositionAnswers} {s : State}

theorem AgreesFrom.head (h : AgreesFrom id n (p :: ps)) :
    readsOne p.first = DeviceId.wireBit id n ∧ readsOne p.second = !DeviceId.wireBit id n := h 0 (Nat.succ_pos _)

theorem AgreesFrom.tail (h : AgreesFrom id n (p :: ps)) : AgreesFrom id (n + 1) ps := by
  intro k hk
  have hnext := h (k + 1) (Nat.succ_lt_succ hk)
  rwa [List.getElem_cons_succ, show n + (k + 1) = n + 1 + k by omega] at hnext

theorem AgreesFrom.no_anomaly (h : AgreesFrom id n ps) : ∀ p ∈ ps, isAnomaly p = false := by
  intro p hp
  obtain ⟨k, hk, rfl⟩ := List.getElem_of_mem hp
  rw [isAnomaly, (h k hk).1, (h k hk).2, Bool.and_not_self]

theorem AgreesFrom.takenDirection (h : AgreesFrom id n (p :: ps)) (s : State) :
    takenDirection s p = DeviceId.wireBit id n := by
  rw [Machine.takenDirection, h.head.1, h.head.2]
  exact searchDirection_agreement _ _ _ (by simp)

/-- The first `n` wire positions of a pass found the bits of `id`, and recorded no zero. -/
structure FoundUpTo (id : DeviceId) (n : Nat) (s : State) : Prop where
  pos : s.pos.toNat = n
  bits : ∀ k < n, DeviceId.wireBit s.curId k = DeviceId.wireBit id k
  lz : s.lz = none

theorem FoundUpTo.positionTaken (h : FoundUpTo id n s) (hn : n < 64) (hagree : AgreesFrom id n (p :: ps)) :
    FoundUpTo id (n + 1) (positionTaken s p) where
  pos := by simp [Machine.positionTaken, h.pos]; omega
  bits k hk := by
    simp only [Machine.positionTaken, positionChosen, hagree.takenDirection s, h.pos]
    rw [DeviceId.wireBit_withBit s.curId n _ k hn (by omega)]
    split
    · next hkn => rw [hkn]
    · exact h.bits k (by omega)
  lz := by simp [Machine.positionTaken, positionChosen, hagree.head, h.lz]

theorem FoundUpTo.positionsTaken (ps : List PositionAnswers) : ∀ {n s}, FoundUpTo id n s → AgreesFrom id n ps →
    n + ps.length ≤ 64 → FoundUpTo id (n + ps.length) (ps.foldl Machine.positionTaken s) := by
  induction ps with
  | nil => exact fun h _ _ => h
  | cons p ps ih =>
    intro n s h hagree hn
    rw [List.length_cons] at hn ⊢
    rw [← Nat.add_assoc, Nat.add_right_comm]
    exact ih (h.positionTaken (by omega) hagree) hagree.tail (by omega)

/-- What the wire positions of a pass leave alone. -/
structure OnlySearched (s t : State) : Prop where
  mode : t.mode = s.mode
  errCode : t.errCode = s.errCode
  reg : t.reg = s.reg
  ld : t.ld = s.ld
  ret : t.ret = s.ret
  responses : t.responses = s.responses

theorem onlySearched_positionsTaken (ps : List PositionAnswers) : ∀ s, OnlySearched s (ps.foldl positionTaken s) := by
  induction ps with
  | nil => exact fun _ => ⟨rfl, rfl, rfl, rfl, rfl, rfl⟩
  | cons p ps ih =>
    intro s
    obtain ⟨hmode, herrCode, hreg, hld, hret, hresponses⟩ := ih (positionTaken s p)
    exact ⟨hmode, herrCode, hreg, hld, hret, hresponses⟩

/-- Each wire position adds three events. -/
theorem positionsTaken_trace (ps : List PositionAnswers) : ∀ s, ∃ es,
    (ps.foldl positionTaken s).trace = s.trace ++ es ∧ es.length = 3 * ps.length := by
  induction ps with
  | nil => exact fun s => ⟨[], by simp⟩
  | cons p ps ih =>
    intro s
    obtain ⟨es, htrace, hes⟩ := ih (positionTaken s p)
    refine ⟨.xfer 0xFF#8 p.first :: .xfer 0xFF#8 p.second :: .xfer (slotByte (takenDirection s p)) p.writeBack :: es,
      htrace.trans ?_, by simp [hes]; omega⟩
    simp [positionTaken, positionChosen]

/-- What an enumeration leaves that found `id` alone, from `s` and in `n` requests. -/
structure FoundOnly (id : DeviceId) (n : Nat) (s t : State) : Prop where
  reg : t.reg = [id]
  errCode : t.errCode = .noError
  mode : t.mode = .dataMode
  ret : t.ret = s.ret
  responses : t.responses = s.responses
  trace : ∃ es, t.trace = s.trace ++ es ∧ es.length = n

theorem resetOutcome_errCode {r : Capture} (h : (resetOutcome r).1 = .ok) : (resetOutcome r).2 = .noError := by
  cases r with
  | nothing => cases h
  | captured c => simp only [resetOutcome] at h ⊢; split at h <;> simp_all

/-- The pass of an enumeration whose participants agree with `id` everywhere, and its end. -/
theorem reaches_foundOnly (o : Owner) (r0 r2 : Capture) {r : Capture} {rom : List Capture} (s : State)
    (hpresence : (resetOutcome r).1 = .ok) (hrom : rom.length = 8) (hagree : agreesWith id ps) :
    ∃ t, FoundOnly id 203 s t ∧ Reaches hw ((passCaptures r0 r r2 rom ps).map answerWord) (startDiscover o s) []
      (answered (enumerationResponse o .ok [id]) t) := by
  obtain ⟨hlen, hreads⟩ := hagree
  have hfrom : AgreesFrom id 0 ps := fun k hk => by simpa using hreads k hk
  have hpass := reaches_passComplete (s := clearForEnumeration s) (q := []) o r0 r2 hpresence hrom hlen hfrom.no_anomaly
  have hfound := FoundUpTo.positionsTaken (n := 0) (s := passOpened r rom (clearForEnumeration s)) ps ⟨rfl, nofun, rfl⟩
    hfrom (by omega)
  have hframe := onlySearched_positionsTaken ps (passOpened r rom (clearForEnumeration s))
  obtain ⟨es, htrace, hes⟩ := positionsTaken_trace ps (passOpened r rom (clearForEnumeration s))
  generalize ps.foldl positionTaken (passOpened r rom (clearForEnumeration s)) = t at *
  have hid : t.curId = id := DeviceId.ext_wireBit _ _ fun k hk => hfound.bits k (by omega)
  have hreg : t.reg = [] := hframe.reg
  have hstored : storedRegistry t = [id] := by simp [storedRegistry, hreg, hid]
  have hroom : t.reg.length < hw.regCapacity := by rw [hreg]; exact Nat.succ_pos _
  rw [passComplete_end t hw o (.inr hroom) hfound.lz, hstored, List.append_nil] at hpass
  refine ⟨_, ?_, hpass⟩
  exact {
    reg := rfl
    errCode := hframe.errCode.trans (resetOutcome_errCode hpresence)
    mode := hframe.mode
    ret := hframe.ret
    responses := hframe.responses
    trace := ⟨_, htrace.trans (by simp [passOpened, slotsWritten, resetDone]; rfl), by simp [hes, hlen, slotEvents, hrom]⟩ }

end Sys2Proof.Machine
end

section
/-! A procedure that runs on its own, from an idle engine (log 4): one slot, or the eight slots of a ROM command byte. -/

namespace Sys2Proof.Machine

open Sys2Proof.Claims Sys2Proof.Safety

variable {s : State} {r : Capture} {rest : List Input}

theorem takeAnswer_await_answerWord (cfg : Config) (p : TransceivePoint) (r : Capture) (s : State) :
    takeAnswer cfg (answerOfWord (answerWord r)) (await (.transceiving p) s) =
      transceived cfg p r (recordEvent (.xfer (p.byteSent cfg s.sh) r) s) := by
  cases r with
  | captured c => rw [answerOfWord_captured, takeAnswer_await_captured]
  | nothing => rw [answerOfWord_nothing, takeAnswer_await_nothing]

/-- One byte out, and what the row makes of the capture. -/
theorem runAlone_slot (hjob : s.job = none) (hinbox : s.inbox = brings [r] ++ rest) (u : LoneSlot) :
    runAlone hw (await (.transceiving (.alone u))) s = { s with
      ret := some (loneResult hw r u)
      inbox := rest
      trace := s.trace ++ [.xfer ((TransceivePoint.alone u).byteSent hw s.sh) r] } :=
  runAlone_of_finishAlone hw hjob hinbox (takeAnswer_await_answerWord hw (.alone u) r s)

/-- A procedure that its answers bring to its end leaves in the inbox what stands behind them. -/
theorem runAlone_of_reaches_finishAlone {start : State → State} {t : State} {ws : List AnswerWord} {result : LoneResult}
    (hstart : LoneStart start) (hjob : s.job = none) (hinbox : s.inbox = answers ws ++ rest)
    (hreach : Reaches hw ws (start s) [] (finishAlone result t)) :
    runAlone hw start s = { t with job := s.job, ret := some result, inbox := rest } := by
  rw [runAlone_idle hw s start hjob, hstart.inboxBlind.inbox, hinbox, hreach, hjob]
  exact drainQueue_idle hw _ rest rfl

theorem exec_of_romRowByte {i : Instr} {v : Byte} (h : romRowByte i = some v) (s : State) :
    exec i s = .next (runAlone hw (startWriteByte .alone v) s) := by
  cases i with
  | romSkip | romRead | romMatch | romSearch => cases h; rfl
  | _ => cases h

end Sys2Proof.Machine
end

section
/-! One answer, taken by an outstanding request: its event and `mode` (30_encoding.md R79). -/

namespace Sys2Proof.Machine

open Sys2Proof.Claims

/-- The answer that brings back `r`. -/
def answerOf : Capture → Answer
  | .captured c => .captured c
  | .nothing => .nothingOrDone

variable {s : State} {j : Job}

theorem takeAnswer_answerOf_configuring (cfg : Config) {p : ConfigPoint} (hjob : s.job = some (.configuring p))
    (r : Capture) : takeAnswer cfg (answerOf r) s = configured cfg p (configureDone p.operand s) := by
  rw [takeAnswer_configuring cfg s _ p hjob]
  cases r <;> rfl

theorem takeAnswer_answerOf_transceiving (cfg : Config) {p : TransceivePoint} (hjob : s.job = some (.transceiving p))
    (r : Capture) : takeAnswer cfg (answerOf r) s =
      transceived cfg p r (recordEvent (.xfer (p.byteSent cfg s.sh) r) s) := by
  rw [takeAnswer_transceiving cfg s _ p hjob]
  cases r <;> rfl

/-- An answer that is no failure adds the event of its request, and `mode` follows that event. -/
theorem takeAnswer_answered (cfg : Config) (hjob : s.job = some j) (r : Capture) :
    (takeAnswer cfg (answerOf r) s).trace = s.trace ++ [answeredEvent r (j.request cfg s.sh)] ∧
      (takeAnswer cfg (answerOf r) s).mode = modeAfter s.mode (answeredEvent r (j.request cfg s.sh)) := by
  cases j with
  | configuring p =>
    have hgoes := configured_proceeds cfg (configureDone p.operand s) p
    rw [takeAnswer_answerOf_configuring cfg hjob, hgoes.trace, hgoes.mode, Job.request]
    cases p.operand <;> exact ⟨rfl, rfl⟩
  | transceiving p =>
    have hgoes := transceived_proceeds cfg (recordEvent (.xfer (p.byteSent cfg s.sh) r) s) p r
    rw [takeAnswer_answerOf_transceiving cfg hjob, hgoes.trace, hgoes.mode]
    exact ⟨rfl, rfl⟩

theorem takeAnswer_failure_alone (cfg : Config) (hjob : s.job = some j) (hj : j.isAlone = true) :
    takeAnswer cfg .failure s =
      finishAlone (.transportError (j.request cfg s.sh)) (requestFailed (j.request cfg s.sh) s) := by
  simpa only [await_of_job hjob] using takeAnswer_await_failure_alone cfg hj s

/-- The state a failed request of a procedure that ran on its own leaves. -/
theorem finishAlone_requestFailed (result : LoneResult) (r : Request) :
    finishAlone result (requestFailed r s) = { s with
      job := none
      ret := some result
      mode := modeAfterFailure s.mode r
      trace := s.trace ++ [failureEvent r] } := by cases r <;> rfl

end Sys2Proof.Machine
end

section
/-! The statements of 40_transport.md and 43_rom_search.md about answers, and about an enumeration of one device. -/

namespace Sys2Proof.Claims

open Sys2Proof.Machine Sys2Proof.Safety

/-- Settles O21: one pass finds the identifier, and no zero is left to resolve. -/
theorem discoverFindsTheOnlyDevice : Obligations.DiscoverFindsTheOnlyDevice := by
  unfold Obligations.DiscoverFindsTheOnlyDevice
  intro arg id s r0 r1 r2 rom ps rest hjob hpresence hrom hagree hinbox
  obtain ⟨t, ht, hreach⟩ := reaches_foundOnly .discover r0 r2 s hpresence hrom hagree
  have hexec := exec_of_reaches_respond (i := .discover arg) .discover (fun _ => rfl) hjob hinbox hreach
  exact ⟨_, hexec, busy_of_none _ hjob, ht.reg, congrArg (fun reg => BitVec.ofNat 9 (List.length reg)) ht.reg,
    ht.errCode, ht.mode, rfl, ht.ret, congrArg (· ++ _) ht.responses, ht.trace⟩

/-- Settles O22: the RESET of INITIALIZE returns to the same enumeration. -/
theorem initializeFindsTheOnlyDevice : Obligations.InitializeFindsTheOnlyDevice := by
  unfold Obligations.InitializeFindsTheOnlyDevice
  intro arg id s q0 q1 q2 r0 r1 r2 rom ps rest hjob hfirst hpresence hrom hagree hinbox
  obtain ⟨t, ht, hreach⟩ := reaches_foundOnly .init r0 r2 (resetDone q1 s) hpresence hrom hagree
  have hreset := reaches_resetReturn (s := s) (q := (passCaptures r0 r1 r2 rom ps).map answerWord) .init q0 q1 q2
  rw [hfirst] at hreset
  have hexec := exec_of_reaches_respond (i := .init arg) .init (fun _ => rfl) hjob hinbox (hreset.trans hreach)
  obtain ⟨es, htrace, hes⟩ := ht.trace
  refine ⟨_, hexec, busy_of_none _ hjob, ht.reg, ht.errCode, ht.mode, rfl, ht.ret, congrArg (· ++ _) ht.responses, ?_⟩
  exact ⟨_, htrace.trans (List.append_assoc ..), by simp [hes]⟩

/-- Settles O23: the three answers of the RESET, and its return to a command that ends. -/
theorem initializeStopsAtFailedReset : Obligations.InitializeStopsAtFailedReset := by
  unfold Obligations.InitializeStopsAtFailedReset
  intro arg s r0 r r2 rest hjob hfailed hinbox
  have hreset := reaches_resetReturn (s := s) (q := []) .init r0 r r2
  rw [hfailed] at hreset
  exact exec_of_reaches_respond (i := .init arg) .init (fun _ => rfl) hjob hinbox hreset

/-- Settles O27: each row is one slot on its own. -/
theorem slotRowsComplete : Obligations.SlotRowsComplete := by
  unfold Obligations.SlotRowsComplete
  intro s r rest hjob hinbox ran
  have hran (u : LoneSlot) := runAlone_slot hjob hinbox u
  refine ⟨fun b => congrArg _ (hran (.transceive b)), ?_, congrArg _ (hran (.writeBit true)),
    congrArg _ (hran (.writeBit false)), ?_⟩
  · refine (congrArg _ (hran .resetPulse)).trans ?_
    cases r <;> rfl
  · refine (congrArg _ (hran .readBit)).trans ?_
    rw [loneResult, hw_decodeBit]
    rfl

/-- Settles O28: the eight slots of WRITE_BYTE, which returns to no command. -/
theorem romBytesComplete : Obligations.RomBytesComplete := by
  unfold Obligations.RomBytesComplete
  intro i v s rs rest hrow hjob hlen hinbox
  have hreach := reaches_byteWritten (v := v) (s := s) (q := []) .alone hlen
  rw [List.append_nil] at hreach
  exact ⟨_, _, (exec_of_romRowByte hrow s).trans
    (congrArg _ (runAlone_of_reaches_finishAlone (.romByte v) hjob hinbox hreach))⟩

/-- Settles O29, for a captured byte and for none. -/
theorem answerTakenByItsRequest : Obligations.AnswerTakenByItsRequest := by
  unfold Obligations.AnswerTakenByItsRequest
  intro s j hjob
  exact ⟨fun c => ⟨_, rfl, takeAnswer_inbox .., takeAnswer_answered hw hjob (.captured c)⟩,
    _, rfl, takeAnswer_inbox .., takeAnswer_answered hw hjob .nothing⟩

/-- Settles O31: both rows are taken as a failure. -/
theorem failureEndsALoneProcedure : Obligations.FailureEndsALoneProcedure := by
  unfold Obligations.FailureEndsALoneProcedure
  intro s j kind low hjob hj after
  have hends : takeAnswer hw .failure s = after :=
    (takeAnswer_failure_alone hw hjob hj).trans (finishAlone_requestFailed _ _)
  exact ⟨congrArg _ hends, congrArg _ hends⟩

/-- Settles O33: no request takes the answer. -/
theorem answerToNothing : Obligations.AnswerToNothing := by
  unfold Obligations.AnswerToNothing
  intro s i w hjob hi
  cases hi
  rw [exec_decodeAnswer, takeAnswer_idle hw s _ hjob]

end Sys2Proof.Claims
end

section
/-! What one answer leaves alone, by the position of the command that takes it: the search state, the byte registers, `mode` and
the responses (10_state.md R24, R25, R36; 60_exceptions.md R171, R172). -/

namespace Sys2Proof.Machine

open Sys2Proof.Safety

variable (cfg : Config) {s t : State} {j : Job}

/-- The registry and the search state. -/
def registryAndSearch (s : State) : List DeviceId × Option WirePos × DeviceId × Option WirePos × BitVec 7 :=
  (s.reg, s.ld, s.curId, s.lz, s.pos)

/-- The two registers of a byte transfer (R24). -/
def byteRegisters (s : State) : Byte × BitVec 4 := (s.sh, s.bitcnt)

/-! ### The parts of a procedure -/

/-- A TransportError writes no register but `mode` and `ret` (R172). -/
theorem raiseTransportError_registers (j : Job) (s : State) : ∃ m ret rs es, raiseTransportError cfg j s =
    { s with job := none, mode := m, ret := ret, responses := rs, trace := es } := by
  unfold raiseTransportError
  dsimp only
  split <;> cases j.request cfg s.sh <;> exact ⟨_, _, _, _, rfl⟩

/-- A write slot outside a search pass writes the two byte registers; its byte ends in a response or in a result. -/
theorem writeSlotDone_registers {k : WriteCaller} (hk : enumerates (.transceiving (.writeSlot k)) = false) (s : State) :
    ∃ j ret rs, (∀ j', j = some j' → j' = .transceiving (.writeSlot k)) ∧ writeSlotDone k s =
      { s with sh := shiftOut s.sh, bitcnt := s.bitcnt + 1#4, job := j, ret := ret, responses := rs } := by
  by_cases hmore : (s.bitcnt + 1#4).toNat < 8
  · exact ⟨_, _, _, fun _ h => (Option.some.inj h).symm, writeSlotDone_more s k hmore⟩
  · rw [writeSlotDone_last s k hmore]
    cases k with
    | command | alone => exact ⟨none, _, _, nofun, rfl⟩
    | pass => cases hk

theorem readSlotDone_registers (v : Bool) (s : State) :
    ∃ j rs, (∀ j', j = some j' → j' = .transceiving .readSlot) ∧ readSlotDone v s =
      { s with sh := shiftIn v s.sh, bitcnt := s.bitcnt + 1#4, job := j, responses := rs } := by
  by_cases hmore : (s.bitcnt + 1#4).toNat < 8
  · exact ⟨_, _, fun _ h => (Option.some.inj h).symm, readSlotDone_more s v hmore⟩
  · exact ⟨none, _, nofun, readSlotDone_last s v hmore⟩

/-- A RESET command ends with its response, and `err_code` by the class of the capture (R120, R121). -/
theorem resetClassified_command_registers (c : ResetClass) (s : State) :
    ∃ e rs, resetClassified .command c s = { s with job := none, errCode := e, responses := rs } := by
  cases c <;> exact ⟨_, _, rfl⟩

/-! ### The registry and the search state, outside every enumeration (R25, R165) -/

theorem takeAnswer_registryAndSearch (a : Answer) (hjob : s.job = some j) (hj : enumerates j = false) :
    registryAndSearch (takeAnswer cfg a s) = registryAndSearch s := by
  obtain ⟨hnone, -⟩ | ⟨k, -, -, heq⟩ | ⟨p, hp, -, heq⟩ | ⟨p, r, hp, -, heq⟩ := takeAnswer_cases cfg s a
  · cases hjob.symm.trans hnone
  · obtain ⟨_, _, _, _, hraise⟩ := raiseTransportError_registers cfg k s
    rw [heq, hraise]
    rfl
  · cases hjob.symm.trans hp
    rw [heq]
    cases p with
    | resetEntry | alone => rfl
    | resetExit k r =>
      cases k with
      | command =>
        obtain ⟨_, _, hend⟩ := resetClassified_command_registers (cfg.classifyReset r) (configureDone .dataMode s)
        exact (congrArg registryAndSearch hend).trans rfl
      | init | pass => cases hj
  · cases hjob.symm.trans hp
    rw [heq]
    generalize TransportEvent.xfer (p.byteSent cfg s.sh) r = e
    cases p with
    | resetPulse | alone => rfl
    | writeSlot k =>
      obtain ⟨_, _, _, -, hslot⟩ := writeSlotDone_registers hj (recordEvent e s)
      exact (congrArg registryAndSearch hslot).trans rfl
    | readSlot =>
      obtain ⟨_, _, -, hslot⟩ := readSlotDone_registers (cfg.decodeBit r) (recordEvent e s)
      exact (congrArg registryAndSearch hslot).trans rfl
    | search => cases hj

/-- Nothing was written to the registry or the search state, and the engine is in no enumeration. -/
theorem takeAnswer_keepsSearch (s : State) (a : Answer) (j : Job) (hjob : s.job = some j) (hj : enumerates j = false) :
    Keeps enumerates registryAndSearch s (takeAnswer cfg a s) :=
  ⟨takeAnswer_registryAndSearch cfg a hjob hj, (takeAnswer_keepsRegistry cfg s a j hjob hj).outside⟩

/-! ### The registry, also inside an enumeration (R147, R152) -/

theorem resetClassified_reg {k : ResetCaller} (hk : k ≠ .init) (c : ResetClass) (s : State) :
    (resetClassified k c s).reg = s.reg := by
  cases k with
  | command => cases c <;> rfl
  | init => exact absurd rfl hk
  | pass o => cases c <;> cases o <;> rfl

theorem writeSlotDone_reg (k : WriteCaller) (s : State) : (writeSlotDone k s).reg = s.reg := by
  unfold writeSlotDone
  dsimp only
  split
  · rfl
  · cases k <;> rfl

theorem positionRead_reg (o : Owner) (a b : Bool) (s : State) : (positionRead o a b s).reg = s.reg := by
  unfold positionRead
  split
  · cases o <;> rfl
  · rfl

/-- The registry is written by the end of a pass and by the clear of INITIALIZE, and by no other answer. -/
theorem takeAnswer_reg (a : Answer) (hjob : s.job = some j) (hback : ∀ o d, j ≠ .transceiving (.search o (.writeBack d)))
    (hinit : ∀ r, j ≠ .configuring (.resetExit .init r)) : (takeAnswer cfg a s).reg = s.reg := by
  obtain ⟨hnone, -⟩ | ⟨k, -, -, heq⟩ | ⟨p, hp, -, heq⟩ | ⟨p, r, hp, -, heq⟩ := takeAnswer_cases cfg s a
  · cases hjob.symm.trans hnone
  · rw [heq, raiseTransportError_reg]
  · cases hjob.symm.trans hp
    rw [heq]
    cases p with
    | resetEntry | alone => rfl
    | resetExit k r => exact resetClassified_reg (by rintro rfl; exact hinit r rfl) _ _
  · cases hjob.symm.trans hp
    rw [heq]
    cases p with
    | resetPulse | alone => rfl
    | writeSlot k => exact writeSlotDone_reg k _
    | readSlot =>
      unfold transceived readSlotDone
      dsimp only
      split <;> rfl
    | search o slot =>
      cases slot with
      | firstRead => rfl
      | secondRead a => exact positionRead_reg o a _ _
      | writeBack d => exact absurd rfl (hback o d)

/-! ### The byte registers, outside a byte transfer (R24) -/

theorem endEnumeration_byteRegisters (o : Owner) (st : Status) (s : State) :
    byteRegisters (endEnumeration o st s) = byteRegisters s := by cases o <;> rfl

theorem nextPass_byteRegisters (o : Owner) (s : State) : byteRegisters (nextPass o s) = byteRegisters s := by
  cases hlz : s.lz with
  | none => rw [nextPass_end s o hlz, endEnumeration_byteRegisters]
  | some p => rw [nextPass_more s o p hlz]; rfl

theorem passComplete_byteRegisters (o : Owner) (s : State) :
    byteRegisters (passComplete cfg o s) = byteRegisters s := by
  unfold passComplete
  split_ifs
  · exact nextPass_byteRegisters o s
  · exact endEnumeration_byteRegisters o .ovf s
  · exact nextPass_byteRegisters o _

theorem resetClassified_byteRegisters {k : ResetCaller} (hk : ∀ o, k ≠ .pass o) (c : ResetClass) (s : State) :
    byteRegisters (resetClassified k c s) = byteRegisters s := by
  cases k with
  | command | init => cases c <;> rfl
  | pass o => exact absurd rfl (hk o)

theorem positionRead_byteRegisters (o : Owner) (a b : Bool) (s : State) :
    byteRegisters (positionRead o a b s) = byteRegisters s := by
  unfold positionRead
  split
  · exact endEnumeration_byteRegisters o .stFalse { s with errCode := .noDevices }
  · rfl

theorem positionDone_byteRegisters (o : Owner) (s : State) :
    byteRegisters (positionDone cfg o s) = byteRegisters s := by
  unfold positionDone
  dsimp only
  split
  · rfl
  · exact passComplete_byteRegisters cfg o { s with pos := s.pos + 1#7 }

theorem takeAnswer_byteRegisters (a : Answer) (hjob : s.job = some j) (hwrite : ∀ k, j ≠ .transceiving (.writeSlot k))
    (hread : j ≠ .transceiving .readSlot) (hpass : ∀ o r, j ≠ .configuring (.resetExit (.pass o) r)) :
    byteRegisters (takeAnswer cfg a s) = byteRegisters s := by
  obtain ⟨hnone, -⟩ | ⟨k, -, -, heq⟩ | ⟨p, hp, -, heq⟩ | ⟨p, r, hp, -, heq⟩ := takeAnswer_cases cfg s a
  · cases hjob.symm.trans hnone
  · obtain ⟨_, _, _, _, hraise⟩ := raiseTransportError_registers cfg k s
    rw [heq, hraise]
    rfl
  · cases hjob.symm.trans hp
    rw [heq]
    cases p with
    | resetEntry | alone => rfl
    | resetExit k r => exact resetClassified_byteRegisters (by rintro o rfl; exact hpass o r rfl) _ (configureDone _ s)
  · cases hjob.symm.trans hp
    rw [heq]
    generalize TransportEvent.xfer (p.byteSent cfg s.sh) r = e
    cases p with
    | resetPulse | alone => rfl
    | writeSlot k => exact absurd rfl (hwrite k)
    | readSlot => exact absurd rfl hread
    | search o slot =>
      cases slot with
      | firstRead => rfl
      | secondRead a => exact positionRead_byteRegisters o a _ (recordEvent e s)
      | writeBack => exact positionDone_byteRegisters cfg o (recordEvent e s)

/-! ### What a command or a procedure keeps from its beginning on -/

/-- A byte is on its way, or an enumeration will send one. -/
def movesBytes : Job → Bool
  | .transceiving (.writeSlot _) => true
  | .transceiving .readSlot => true
  | j => enumerates j

/-- A `Configure` is outstanding, or a RESET will issue one. -/
def configures : Job → Bool
  | .configuring _ => true
  | j => recordsErrors j

/-- The positions that move no byte are the three of the RESET command and those of one request on its own. -/
theorem takeAnswer_keepsByteRegisters (s : State) (a : Answer) (j : Job) (hjob : s.job = some j)
    (hj : movesBytes j = false) : Keeps movesBytes byteRegisters s (takeAnswer cfg a s) := by
  have hkept := takeAnswer_byteRegisters cfg a hjob (by rintro k rfl; cases hj) (by rintro rfl; cases hj)
    (by rintro o r rfl; cases hj)
  obtain ⟨hnone, -⟩ | ⟨k, -, -, heq⟩ | ⟨p, hp, -, heq⟩ | ⟨p, r, hp, -, heq⟩ := takeAnswer_cases cfg s a
  · cases hjob.symm.trans hnone
  · exact .ended (heq ▸ raiseTransportError_job cfg k s) hkept
  · cases hjob.symm.trans hp
    cases p with
    | resetEntry k =>
      cases k with
      | command => exact .waiting (heq ▸ rfl) (j := .transceiving (.resetPulse .command)) rfl hkept
      | init | pass => cases hj
    | resetExit k r =>
      cases k with
      | command =>
        obtain ⟨_, _, hend⟩ := resetClassified_command_registers (cfg.classifyReset r) (configureDone .dataMode s)
        exact .ended ((congrArg State.job (heq.trans hend)).trans rfl) hkept
      | init | pass => cases hj
    | alone => exact .ended (heq ▸ rfl) hkept
  · cases hjob.symm.trans hp
    cases p with
    | resetPulse k =>
      cases k with
      | command => exact .waiting (heq ▸ rfl) (j := .configuring (.resetExit .command r)) rfl hkept
      | init | pass => cases hj
    | alone => exact .ended (heq ▸ rfl) hkept
    | writeSlot | readSlot | search => cases hj

/-- Outside every RESET and with no `Configure` outstanding, `mode` stays as it is (R36). -/
theorem takeAnswer_keepsMode (s : State) (a : Answer) (j : Job) (hjob : s.job = some j) (hj : configures j = false) :
    Keeps configures State.mode s (takeAnswer cfg a s) := by
  obtain ⟨hnone, -⟩ | ⟨k, hk, -, heq⟩ | ⟨p, hp, -, heq⟩ | ⟨p, r, hp, -, heq⟩ := takeAnswer_cases cfg s a
  · cases hjob.symm.trans hnone
  · cases hjob.symm.trans hk
    cases j with
    | configuring => cases hj
    | transceiving p =>
      exact heq ▸ .ended (raiseTransportError_job ..) (raiseTransportError_proceeds cfg s (.transceiving p)).mode
  · cases hjob.symm.trans hp
    cases hj
  · cases hjob.symm.trans hp
    rw [heq]
    refine ⟨(transceived_proceeds cfg _ p r).mode, fun j' hj' => ?_⟩
    generalize TransportEvent.xfer (p.byteSent cfg s.sh) r = e at hj'
    cases p with
    | writeSlot k =>
      obtain ⟨_, _, _, hafter, hslot⟩ := writeSlotDone_registers hj (recordEvent e s)
      exact hafter j' ((congrArg State.job hslot).symm.trans hj') ▸ hj
    | readSlot =>
      obtain ⟨_, _, hafter, hslot⟩ := readSlotDone_registers (cfg.decodeBit r) (recordEvent e s)
      exact hafter j' ((congrArg State.job hslot).symm.trans hj') ▸ hj
    | alone => cases hj'
    | resetPulse | search => cases hj

/-- A procedure that runs on its own gives the host no response (log 4). -/
theorem takeAnswer_keepsResponses (s : State) (a : Answer) (j : Job) (hjob : s.job = some j)
    (hj : (!j.isAlone) = false) : Keeps (fun j => !j.isAlone) State.responses s (takeAnswer cfg a s) := by
  have hlone : j.isAlone = true := by simpa using hj
  obtain ⟨s', hgoes, -⟩ := takeAnswer_proceeds cfg s a j hjob
  refine ⟨?_, fun k hk => by simpa [hlone] using hgoes.job k hk⟩
  obtain ⟨hnone, -⟩ | ⟨k, hk, rfl, -⟩ | ⟨p, hp, -, heq⟩ | ⟨p, r, hp, -, heq⟩ := takeAnswer_cases cfg s a
  · cases hjob.symm.trans hnone
  · simp [takeAnswer_failure_alone cfg hjob hlone]
  · cases hjob.symm.trans hp
    rw [heq]
    cases p with
    | alone => rfl
    | resetEntry | resetExit => cases hlone
  · cases hjob.symm.trans hp
    rw [heq]
    cases p with
    | alone => rfl
    | writeSlot k =>
      cases k with
      | alone =>
        unfold transceived writeSlotDone
        dsimp only
        split <;> rfl
      | command | pass => cases hlone
    | resetPulse | readSlot | search => cases hlone

end Sys2Proof.Machine
end

section
/-! The frames of the commands, from where they begin (41_codec.md R116; 42_bus_control.md R127, R128; 44_registry.md R166). -/

namespace Sys2Proof.Machine

open Sys2Proof.Safety Sys2Proof.Claims

variable {α : Type} {positions : Job → Bool} {f : State → α} (cfg : Config) {s : State} {start : State → State}

/-- `f` is no part of the inbox, and no answer taken outside the positions writes it. -/
structure KeptOutside (cfg : Config) (positions : Job → Bool) (f : State → α) : Prop where
  inbox : ∀ s q, f { s with inbox := q } = f s
  answer : ∀ s a j, s.job = some j → positions j = false → Keeps positions f s (takeAnswer cfg a s)

theorem KeptOutside.runCommand (hf : KeptOutside cfg positions f) (hreject : f (rejectWord s) = f s)
    (hstart : Keeps positions f s (start s)) : f (runCommand cfg start s) = f s := by
  unfold Machine.runCommand
  split
  · exact hreject
  · exact (hstart.drain cfg hf.inbox hf.answer).kept

theorem KeptOutside.runAlone (hf : KeptOutside cfg positions f) (hstart : Keeps positions f s (start s)) :
    f (runAlone cfg start s) = f s := by
  unfold Machine.runAlone
  split
  · rfl
  · exact (hstart.drain cfg hf.inbox hf.answer).kept

theorem registryAndSearch_keptOutside : KeptOutside cfg enumerates registryAndSearch :=
  ⟨fun _ _ => rfl, takeAnswer_keepsSearch cfg⟩

theorem records_keptOutside : KeptOutside cfg recordsErrors records :=
  ⟨fun _ _ => rfl, takeAnswer_keepsRecords cfg⟩

theorem byteRegisters_keptOutside : KeptOutside cfg movesBytes byteRegisters :=
  ⟨fun _ _ => rfl, takeAnswer_keepsByteRegisters cfg⟩

theorem mode_keptOutside : KeptOutside cfg configures State.mode :=
  ⟨fun _ _ => rfl, takeAnswer_keepsMode cfg⟩

theorem responses_keptOutside : KeptOutside cfg (fun j => !j.isAlone) State.responses :=
  ⟨fun _ _ => rfl, takeAnswer_keepsResponses cfg⟩

theorem recordsErrors_of_configures {j : Job} (h : configures j = false) : recordsErrors j = false := by
  cases j with
  | configuring => cases h
  | transceiving => exact h

theorem recordsErrors_of_isAlone {j : Job} (h : j.isAlone = true) : recordsErrors j = false := by
  cases j with
  | configuring p =>
    cases p with
    | alone => rfl
    | resetEntry | resetExit => cases h
  | transceiving p =>
    cases p with
    | alone => rfl
    | writeSlot k =>
      cases k with
      | alone => rfl
      | command | pass => cases h
    | resetPulse | readSlot | search => cases h

/-- What is said of the registry and the search state, from their pair being kept. -/
theorem frame_of_registryAndSearch {s t : State} (h : registryAndSearch t = registryAndSearch s) :
    t.reg = s.reg ∧ sameBytes s t ∧ sameSearchState s t := by
  simp only [registryAndSearch, Prod.mk.injEq] at h
  obtain ⟨hreg, hsearch⟩ := h
  exact ⟨hreg, fun a => by rw [hreg], hsearch⟩

/-- The codec and ROM commands begin at a write slot or a read slot of their own. -/
theorem isByteTransfer_command {i : Instr} (h : isByteTransfer i = true) : ∃ start j, HostStart start ∧
    (∀ s, exec i s = .next (runCommand hw start s)) ∧ configures j = false ∧
    ∀ s, ∃ sh bitcnt, start s = await j { s with sh := sh, bitcnt := bitcnt } := by
  cases i with
  | writeByte v => exact ⟨_, _, .writeByte .writeByte v, fun _ => rfl, rfl, fun _ => ⟨_, _, rfl⟩⟩
  | readByte => exact ⟨_, _, .readByte, fun _ => rfl, rfl, fun _ => ⟨_, _, rfl⟩⟩
  | skipRom => exact ⟨_, _, .writeByte .skipRom _, fun _ => rfl, rfl, fun _ => ⟨_, _, rfl⟩⟩
  | readRom => exact ⟨_, _, .writeByte .readRom _, fun _ => rfl, rfl, fun _ => ⟨_, _, rfl⟩⟩
  | searchRom => exact ⟨_, _, .writeByte .searchRom _, fun _ => rfl, rfl, fun _ => ⟨_, _, rfl⟩⟩
  | matchRom => exact ⟨_, _, .writeByte .matchRom _, fun _ => rfl, rfl, fun _ => ⟨_, _, rfl⟩⟩
  | _ => cases h

/-- The internal rows begin at a position of their own: CONFIGURE alone at a `Configure`, the ROM bytes at a write slot. -/
theorem isInternal_alone {i : Instr} (h : isInternal i = true) : ∃ start j,
    (∀ s, exec i s = .next (runAlone hw start s)) ∧ j.isAlone = true ∧
    (∀ s, ∃ sh bitcnt, start s = await j { s with sh := sh, bitcnt := bitcnt }) ∧
    ((∀ m, i ≠ .configure m) → configures j = false) ∧
    (romRowByte i = none → movesBytes j = false ∧ ∀ s, start s = await j s) := by
  cases i with
  | configure m =>
    exact ⟨_, .configuring (.alone m), fun _ => rfl, rfl, fun _ => ⟨_, _, rfl⟩, fun hi => absurd rfl (hi m),
      fun _ => ⟨rfl, fun _ => rfl⟩⟩
  | transceive | resetPulse | writeBit1 | writeBit0 | readBit =>
    exact ⟨_, .transceiving (.alone _), fun _ => rfl, rfl, fun _ => ⟨_, _, rfl⟩, fun _ => rfl,
      fun _ => ⟨rfl, fun _ => rfl⟩⟩
  | romSkip | romRead | romMatch | romSearch =>
    exact ⟨_, .transceiving (.writeSlot .alone), fun _ => rfl, rfl, fun _ => ⟨_, _, rfl⟩, fun _ => rfl, nofun⟩
  | _ => cases h

/-! ### The commands that only read -/

theorem entryResponse_status (index : Nat) (reg : List DeviceId) :
    (entryResponse index reg).status = .ok ∨ (entryResponse index reg).status = .notFound := by
  unfold entryResponse
  split
  · exact .inl rfl
  · exact .inr rfl

/-- The read-only commands are answered from the registry and the error record, with `ST_OK` or `ST_NOTFOUND`. -/
theorem isReadOnly_command {i : Instr} (h : isReadOnly i = true) : ∃ f : List DeviceId → ErrCode → Response,
    (∀ s, exec i s = .next (runCommand hw (respondRead f) s)) ∧
    ∀ reg e, (f reg e).status = .ok ∨ (f reg e).status = .notFound := by
  cases i with
  | deviceCount => exact ⟨fun reg _ => ⟨.ok, countOf reg, []⟩, fun _ => rfl, fun _ _ => .inl rfl⟩
  | devices => exact ⟨fun reg _ => ⟨.ok, countOf reg, reg⟩, fun _ => rfl, fun _ _ => .inl rfl⟩
  | device index =>
    exact ⟨fun reg _ => entryResponse (indexOf index) reg, fun s => by rw [← respondEntry_eq (indexOf index)]; rfl,
      fun reg _ => entryResponse_status _ reg⟩
  | lastError => exact ⟨fun _ e => ⟨.ok, e.bits.zeroExtend 64, []⟩, fun _ => rfl, fun _ _ => .inl rfl⟩
  | _ => cases h

theorem runCommand_respondRead (f : List DeviceId → ErrCode → Response) (hjob : s.job = none) :
    runCommand cfg (respondRead f) s = { s with responses := s.responses ++ [f s.reg s.errCode] } := by
  rw [runCommand_of_ended cfg hjob rfl, respondRead, ← hjob]

end Sys2Proof.Machine

namespace Sys2Proof.Claims

open Sys2Proof.Machine Sys2Proof.Safety

/-- Settles O45: a byte transfer begins outside the positions that write these registers, and stays outside. -/
theorem byteTransferFrame : Obligations.ByteTransferFrame := by
  unfold Obligations.ByteTransferFrame
  intro i s t hi h
  obtain ⟨start, j, hstart, hexec, hj, hbegin⟩ := isByteTransfer_command hi
  cases (hexec s).symm.trans h
  obtain ⟨sh, bitcnt, hbegin⟩ := hbegin s
  have hrecords := recordsErrors_of_configures hj
  have hmode := (mode_keptOutside hw).runCommand hw (s := s) (start := start) rfl (hbegin ▸ .waiting rfl hj rfl)
  have herr := (records_keptOutside hw).runCommand hw (s := s) (start := start) rfl (hbegin ▸ .waiting rfl hrecords rfl)
  have hreg := (registryAndSearch_keptOutside hw).runCommand hw (s := s) (start := start) rfl
    (hbegin ▸ .waiting rfl (enumerates_of_recordsErrors hrecords) rfl)
  obtain ⟨hreg, hbytes, hsearch⟩ := frame_of_registryAndSearch hreg
  exact ⟨congrArg Prod.snd herr, hmode, by rw [State.count, hreg, State.count], hbytes, hsearch, runCommand_ret hw hstart s⟩

/-- Settles O46: RESET begins outside every enumeration, moves no byte, and stays so. -/
theorem resetFrame : Obligations.ResetFrame := by
  unfold Obligations.ResetFrame
  intro arg s t h
  cases h
  have hreg := (registryAndSearch_keptOutside hw).runCommand hw (s := s) (start := startReset .command) rfl
    (.waiting rfl rfl rfl)
  have hbyte := (byteRegisters_keptOutside hw).runCommand hw (s := s) (start := startReset .command) rfl
    (.waiting rfl rfl rfl)
  obtain ⟨hreg, hbytes, hsearch⟩ := frame_of_registryAndSearch hreg
  exact ⟨hreg, by rw [State.count, hreg, State.count], hbytes, hsearch, congrArg Prod.fst hbyte, congrArg Prod.snd hbyte,
    runCommand_ret hw .reset s⟩

/-- Settles O47: the response depends on the registry and the error record alone, which no response changes. -/
theorem readOnlyFrame : Obligations.ReadOnlyFrame := by
  unfold Obligations.ReadOnlyFrame
  intro i s t hi h
  obtain ⟨f, hexec, hstatus⟩ := isReadOnly_command hi
  cases (hexec s).symm.trans h
  by_cases hbusy : s.busy = true
  · rw [runCommand_busy hw s _ hbusy]
    exact ⟨_, rfl, .inr (.inr rfl), (hexec _).trans (congrArg _ (runCommand_busy hw (rejectWord s) _ hbusy))⟩
  · have hjob : s.job = none := (busy_eq_false_iff s).mp (by simpa using hbusy)
    rw [runCommand_respondRead hw f hjob]
    refine ⟨_, rfl, (hstatus _ _).imp_right .inl, ?_⟩
    rw [hexec, runCommand_respondRead hw f (s := { s with responses := s.responses ++ [f s.reg s.errCode] }) hjob]

/-- Settles O48: an internal row begins at a position of its own, and a procedure on its own stays at such positions. -/
theorem internalRowsFrame : Obligations.InternalRowsFrame := by
  unfold Obligations.InternalRowsFrame
  intro i s t hi h
  obtain ⟨start, j, hexec, hj, hbegin, hmode, hbyte⟩ := isInternal_alone hi
  cases (hexec s).symm.trans h
  obtain ⟨sh, bitcnt, hbegin⟩ := hbegin s
  have hrecords := recordsErrors_of_isAlone hj
  have herr := (records_keptOutside hw).runAlone hw (s := s) (start := start) (hbegin ▸ .waiting rfl hrecords rfl)
  have hreg := (registryAndSearch_keptOutside hw).runAlone hw (s := s) (start := start)
    (hbegin ▸ .waiting rfl (enumerates_of_recordsErrors hrecords) rfl)
  obtain ⟨hreg, hbytes, hsearch⟩ := frame_of_registryAndSearch hreg
  refine ⟨congrArg Prod.snd herr, hreg, hbytes, hsearch, ?_, fun hi => ?_, fun hi => ?_⟩
  · exact (responses_keptOutside hw).runAlone hw (hbegin ▸ .waiting rfl (by simp [hj]) rfl)
  · exact (mode_keptOutside hw).runAlone hw (hbegin ▸ .waiting rfl (hmode hi) rfl)
  · obtain ⟨hmoves, hawait⟩ := hbyte hi
    have hkept := (byteRegisters_keptOutside hw).runAlone hw (s := s) (start := start)
      (hawait s ▸ .waiting rfl hmoves rfl)
    exact ⟨congrArg Prod.fst hkept, congrArg Prod.snd hkept⟩

/-- Settles O54, from what an answer leaves alone at each position. -/
theorem answerFrame : Obligations.AnswerFrame := by
  unfold Obligations.AnswerFrame
  intro i w j s t hi hjob h
  cases hi
  cases (exec_decodeAnswer s w).symm.trans h
  generalize answerOfWord w = a
  refine ⟨takeAnswer_inbox hw a s, fun hj => frame_of_registryAndSearch (takeAnswer_registryAndSearch hw a hjob hj),
    fun hback hinit => ?_, fun hj => congrArg Prod.snd (takeAnswer_keepsRecords hw s a j hjob hj).kept, fun hj => ?_,
    fun hwrite hread hpass => ?_⟩
  · have hreg := takeAnswer_reg hw a hjob hback hinit
    exact ⟨hreg, fun addr => by rw [hreg]⟩
  · obtain ⟨s', hgoes, -, hret, -⟩ := takeAnswer_proceeds hw s a j hjob
    exact (hgoes.ret hj).trans hret
  · have hkept := takeAnswer_byteRegisters hw a hjob hwrite hread hpass
    exact ⟨congrArg Prod.fst hkept, congrArg Prod.snd hkept⟩

end Sys2Proof.Claims
end

section
/-! The reference bus (95_test_vectors.md part 2; log 22) and one request of the engine to it. -/

namespace Sys2Proof.Machine

open Sys2Proof.Safety Sys2Proof.Claims

variable (cfg : Config) {s : State} {bus : Bus}

theorem serve_of_idle (n : Nat) (bus : Bus) (hjob : s.job = none) : serve cfg n bus s = s := by
  cases n with
  | zero => rfl
  | succ n => simp only [serve, hjob]

/-- One request, answered by the bus. -/
theorem serve_succ {j : Job} (n : Nat) {w : AnswerWord} {bus' : Bus} (hjob : s.job = some j)
    (hbus : bus.answer (j.request cfg s.sh) = (w, bus')) :
    serve cfg (n + 1) bus s = serve cfg n bus' (takeAnswer cfg (answerOfWord w) s) := by
  simp only [serve, hjob, hbus]

theorem answerOfWord_answerWord (r : Capture) : answerOfWord (answerWord r) = answerOf r := by
  cases r <;> simp [answerOf]

@[simp] theorem Bus.afterSlot_umode (bus : Bus) (v : Bool) : (bus.afterSlot v).umode = bus.umode := by
  unfold Bus.afterSlot
  dsimp only
  split
  case h_1 => split <;> rfl
  all_goals rfl

end Sys2Proof.Machine
end

section
/-! The wired-AND premise on the reference bus (40_transport.md R103): kept by every capture that the bus gives, as long as the
engine sends its reset pulse in RESET_MODE and its slots in DATA_MODE. -/

namespace Sys2Proof.Machine

open Sys2Proof.Safety Sys2Proof.Claims

variable {s : State} {bus : Bus} {j : Job}

theorem wiredAnd_append {trace : List TransportEvent} {e : TransportEvent} (h : WiredAnd trace)
    (he : ∀ b c, e = .xfer b (.captured c) → c &&& ~~~b = 0#8) : WiredAnd (trace ++ [e]) := by
  intro b c hmem
  obtain hmem | hmem := List.mem_append.mp hmem
  · exact h b c hmem
  · exact he b c (List.mem_singleton.mp hmem).symm

/-- What the bus answers to a byte: a capture, which in DATA_MODE is the byte with some ones cleared, and in RESET_MODE is the
reset pulse with some ones cleared. -/
theorem answer_transceive (bus : Bus) (t : Byte) : ∃ r bus', bus.answer (.transceive t) = (answerWord r, bus') ∧
    bus'.umode = bus.umode ∧
    (bus.umode = .dataMode ∨ bus.umode = .resetMode ∧ t = 0xF0#8 → ∀ c, r = .captured c → c &&& ~~~t = 0#8) := by
  unfold Bus.answer
  cases bus.connected with
  | false => exact ⟨.nothing, bus, rfl, rfl, nofun⟩
  | true =>
    cases humode : bus.umode with
    | unconf => exact ⟨.captured t, bus, rfl, humode, by simp⟩
    | resetMode =>
      refine ⟨.captured (if bus.devices.isEmpty then 0xF0#8 else 0xE0#8), _, rfl, rfl, ?_⟩
      rintro (h | ⟨-, rfl⟩) c ⟨⟩
      · cases h
      · split <;> decide
    | dataMode =>
      refine ⟨.captured (if t = 0xFF#8 ∧ bus.pulls then 0xFE#8 else t), _, rfl, by simp [humode], ?_⟩
      rintro - c ⟨⟩
      split
      · next h => rw [h.1]; decide
      · exact BitVec.and_not_self t

/-- Where the engine sends a byte while a RESET is in progress or to come, it is the pulse, in RESET_MODE, or a slot, in
DATA_MODE. -/
theorem mode_of_recordsErrors {p : TransceivePoint} (hform : jobForm s (.transceiving p))
    (hp : recordsErrors (.transceiving p) = true) :
    s.mode = .dataMode ∨ s.mode = .resetMode ∧ ∃ k, p = .resetPulse k := by
  cases p with
  | resetPulse k => exact .inr ⟨hform.2, k, rfl⟩
  | writeSlot k =>
    cases k with
    | pass => exact .inl hform.2.2
    | command | alone => cases hp
  | readSlot | alone => cases hp
  | search o slot =>
    cases slot with
    | firstRead | secondRead => exact .inl hform.2.2.1
    | writeBack => exact .inl hform.2.2.1

/-- What the engine and the bus keep between two requests. -/
structure Wired (bus : Bus) (s : State) : Prop where
  inv : Inv s
  umode : bus.umode = s.mode
  trace : WiredAnd s.trace
  ready : s.job = none ∨ s.mode = .dataMode ∨ ∃ j, s.job = some j ∧ recordsErrors j = true

theorem Wired.configure {p : ConfigPoint} (h : Wired bus s) (hjob : s.job = some (.configuring p)) :
    Wired { bus with umode := Mode.ofConfig p.operand } (takeAnswer hw (answerOf .nothing) s) := by
  obtain ⟨htrace, hmode⟩ := takeAnswer_answered hw hjob .nothing
  have hafter : modeAfter s.mode (.cfg p.operand) = Mode.ofConfig p.operand := by cases p.operand <;> rfl
  refine ⟨inv_takeAnswer h.inv _, (hmode.trans hafter).symm, htrace ▸ wiredAnd_append h.trace nofun, ?_⟩
  cases p with
  | resetEntry k =>
    rw [takeAnswer_answerOf_configuring hw hjob]
    exact .inr (.inr ⟨.transceiving (.resetPulse k), rfl, rfl⟩)
  | resetExit => exact .inr (.inl (hmode.trans hafter))
  | alone =>
    rw [takeAnswer_answerOf_configuring hw hjob]
    exact .inl rfl

theorem Wired.transceive {p : TransceivePoint} (h : Wired bus s) (hjob : s.job = some (.transceiving p)) :
    ∃ r bus', bus.answer (.transceive (p.byteSent hw s.sh)) = (answerWord r, bus') ∧
      Wired bus' (takeAnswer hw (answerOf r) s) := by
  obtain ⟨r, bus', hbus, humode, hcapture⟩ := answer_transceive bus (p.byteSent hw s.sh)
  obtain ⟨htrace, hmode⟩ := takeAnswer_answered hw hjob r
  have hready : s.mode = .dataMode ∨ s.mode = .resetMode ∧ ∃ k, p = .resetPulse k := by
    obtain hnone | hdata | ⟨j, hj, hrecords⟩ := h.ready
    · cases hjob.symm.trans hnone
    · exact .inl hdata
    · cases hjob.symm.trans hj
      exact mode_of_recordsErrors (h.inv.job _ hjob) hrecords
  refine ⟨r, bus', hbus, inv_takeAnswer h.inv _, humode.trans (h.umode.trans hmode.symm),
    htrace ▸ wiredAnd_append h.trace ?_, ?_⟩
  · rintro b c ⟨⟩
    refine hcapture ?_ c rfl
    rw [h.umode]
    exact hready.imp_right fun ⟨hreset, k, hk⟩ => ⟨hreset, by rw [hk]; rfl⟩
  · obtain hdata | ⟨-, k, rfl⟩ := hready
    · exact .inr (.inl (hmode.trans hdata))
    · rw [takeAnswer_answerOf_transceiving hw hjob]
      exact .inr (.inr ⟨.configuring (.resetExit k r), rfl, rfl⟩)

/-- The engine and the bus together keep the premise, request by request. -/
theorem Wired.serve (n : Nat) : ∀ {bus : Bus} {s : State}, Wired bus s → WiredAnd (serve hw n bus s).trace := by
  induction n with
  | zero => exact fun h => h.trace
  | succ n ih =>
    intro bus s h
    cases hjob : s.job with
    | none => rw [serve_of_idle hw _ bus hjob]; exact h.trace
    | some j =>
      cases j with
      | configuring p =>
        rw [serve_succ hw n hjob (w := answerWord .nothing) rfl, answerOfWord_answerWord]
        exact ih (h.configure hjob)
      | transceiving p =>
        obtain ⟨r, bus', hbus, hwired⟩ := h.transceive hjob
        rw [serve_succ hw n hjob hbus, answerOfWord_answerWord]
        exact ih hwired

end Sys2Proof.Machine

namespace Sys2Proof.Claims

open Sys2Proof.Machine

/-- Settles O44: what the engine and the bus keep between two requests holds at the beginning. -/
theorem referenceBusIsWiredAnd : Obligations.ReferenceBusIsWiredAnd := by
  unfold Obligations.ReferenceBusIsWiredAnd
  exact fun n _ _ hinv humode htrace hready => Wired.serve n ⟨hinv, humode, htrace, .inr hready⟩

end Sys2Proof.Claims
end

section
/-! Discovery order (43_rom_search.md R154) as an order on identifiers. -/

namespace Sys2Proof.Machine

open Sys2Proof.Safety

variable {a b c : DeviceId}

/-- Two identifiers have the same bits at the first `n` wire positions. -/
def AgreeBefore (n : Nat) (a b : DeviceId) : Prop := ∀ k < n, DeviceId.wireBit a k = DeviceId.wireBit b k

theorem AgreeBefore.symm {n : Nat} (h : AgreeBefore n a b) : AgreeBefore n b a := fun k hk => (h k hk).symm

theorem AgreeBefore.mono {m n : Nat} (h : AgreeBefore n a b) (hmn : m ≤ n) : AgreeBefore m a b :=
  fun k hk => h k (by omega)

theorem AgreeBefore.trans {n : Nat} (h₁ : AgreeBefore n a b) (h₂ : AgreeBefore n b c) : AgreeBefore n a c :=
  fun k hk => (h₁ k hk).trans (h₂ k hk)

theorem wireBefore_irrefl (a : DeviceId) : ¬ wireBefore a a := by
  rintro ⟨k, -, -, h0, h1⟩
  exact absurd (h0.symm.trans h1) nofun

theorem wireBefore_trans (h₁ : wireBefore a b) (h₂ : wireBefore b c) : wireBefore a c := by
  obtain ⟨m, hm, hab, ha, hb⟩ := h₁
  obtain ⟨n, hn, hbc, hb', hc⟩ := h₂
  obtain hlt | rfl | hgt := Nat.lt_trichotomy m n
  · exact ⟨m, hm, fun k hk => (hab k hk).trans (hbc k (by omega)), ha, (hbc m hlt).symm.trans hb⟩
  · exact absurd (hb.symm.trans hb') nofun
  · exact ⟨n, hn, fun k hk => (hab k (by omega)).trans (hbc k hk), (hab n hgt).trans hb', hc⟩

theorem wireBefore_asymm (h : wireBefore a b) : ¬ wireBefore b a := fun h' => wireBefore_irrefl a (wireBefore_trans h h')

/-- Different identifiers differ at a first wire position. -/
theorem wireBefore_total (h : a ≠ b) : wireBefore a b ∨ wireBefore b a := by
  have hdiffer : ∃ k, k < 64 ∧ DeviceId.wireBit a k ≠ DeviceId.wireBit b k := by
    by_contra hsame
    exact h (DeviceId.ext_wireBit a b fun k hk => by_contra fun hk' => hsame ⟨k, hk, hk'⟩)
  classical
  obtain ⟨hk, hne⟩ := Nat.find_spec hdiffer
  have hbefore (j : Nat) (hj : j < Nat.find hdiffer) : DeviceId.wireBit a j = DeviceId.wireBit b j :=
    by_contra fun hj' => Nat.find_min hdiffer hj ⟨by omega, hj'⟩
  cases ha : DeviceId.wireBit a (Nat.find hdiffer) with
  | false => exact .inl ⟨_, hk, hbefore, ha, by simpa [ha] using hne.symm⟩
  | true => exact .inr ⟨_, hk, fun j hj => (hbefore j hj).symm, by simpa [ha] using hne.symm, ha⟩

open Classical in
/-- Discovery order, the identifier itself included, as a test to sort by. -/
noncomputable def notAfter (a b : DeviceId) : Bool := decide (a = b ∨ wireBefore a b)

theorem notAfter_iff : notAfter a b = true ↔ a = b ∨ wireBefore a b := by
  classical exact decide_eq_true_iff

theorem notAfter_trans (h₁ : notAfter a b = true) (h₂ : notAfter b c = true) : notAfter a c = true := by
  rw [notAfter_iff] at *
  obtain rfl | hab := h₁
  · exact h₂
  · obtain rfl | hbc := h₂
    · exact .inr hab
    · exact .inr (wireBefore_trans hab hbc)

theorem notAfter_total (a b : DeviceId) : (notAfter a b || notAfter b a) = true := by
  rw [Bool.or_eq_true, notAfter_iff, notAfter_iff]
  by_cases hab : a = b
  · exact .inl (.inl hab)
  · exact (wireBefore_total hab).imp .inr .inr

/-- Identifiers that are all different can be put in discovery order. -/
theorem exists_discoveryOrder (ids : List DeviceId) (h : ids.Nodup) :
    ∃ sorted : List DeviceId, sorted.Perm ids ∧ sorted.Pairwise wireBefore := by
  have hperm := List.mergeSort_perm ids notAfter
  have hsorted := List.pairwise_mergeSort (le := notAfter) (fun _ _ _ => notAfter_trans) notAfter_total ids
  refine ⟨_, hperm, (hsorted.and (hperm.nodup_iff.mpr h)).imp fun hab => ?_⟩
  exact (notAfter_iff.mp hab.1).resolve_left hab.2

/-! ### The pass that finds an identifier -/

/-- Wire position `q` of a pass that finds `f` is a discrepancy at which it takes 0 (R144). -/
def TakesZero (devices : List DeviceId) (f : DeviceId) (q : Nat) : Prop :=
  DeviceId.wireBit f q = false ∧ ∃ d ∈ devices, AgreeBefore q d f ∧ DeviceId.wireBit d q = true

/-- `lz` is the last discrepancy among the first `n` wire positions at which a pass that finds `f` takes 0. -/
structure IsLastZero (devices : List DeviceId) (f : DeviceId) (n : Nat) (lz : Option WirePos) : Prop where
  zero : ∀ p, lz = some p → p.toNat < n ∧ TakesZero devices f p.toNat
  last : ∀ q < n, TakesZero devices f q → ∃ p, lz = some p ∧ q ≤ p.toNat

/-- The rule of R143, with `ld` and the path of the previous pass, follows `f` at every discrepancy. -/
def Follows (devices : List DeviceId) (ld : Option WirePos) (path f : DeviceId) : Prop :=
  ∀ k < 64, (∃ d ∈ devices, AgreeBefore k d f ∧ DeviceId.wireBit d k ≠ DeviceId.wireBit f k) →
    DeviceId.wireBit f k = discrepancyDirection ld path k

variable {devices : List DeviceId} {f g : DeviceId} {lz : Option WirePos}

theorem TakesZero.wireBefore {q : Nat} (h : TakesZero devices f q) (hq : q < 64) :
    ∃ d ∈ devices, Safety.wireBefore f d ∧ AgreeBefore q d f ∧ DeviceId.wireBit d q = true := by
  obtain ⟨hf, d, hd, hagree, hbit⟩ := h
  exact ⟨d, hd, ⟨q, hq, hagree.symm, hf, hbit⟩, hagree, hbit⟩

/-- A first pass finds the identifier that is before all others. -/
theorem follows_first (path : DeviceId) (hfirst : ∀ d ∈ devices, d = f ∨ wireBefore f d) : Follows devices none path f := by
  rintro k hk ⟨d, hd, hagree, hne⟩
  rw [discrepancyDirection_none]
  by_contra hf
  have hf : DeviceId.wireBit f k = true := by simpa using hf
  have hbefore : wireBefore d f := ⟨k, hk, hagree, by simpa [hf] using hne, hf⟩
  obtain rfl | hafter := hfirst d hd
  · exact wireBefore_irrefl d hbefore
  · exact wireBefore_asymm hbefore hafter

/-- With no zero recorded, `f` is the last identifier in discovery order. -/
theorem IsLastZero.eq_none_iff (h : IsLastZero devices f 64 lz) : lz = none ↔ ∀ d ∈ devices, ¬ wireBefore f d := by
  constructor
  · rintro rfl d hd ⟨q, hq, hagree, hf, hbit⟩
    obtain ⟨p, hp, -⟩ := h.last q hq ⟨hf, d, hd, AgreeBefore.symm hagree, hbit⟩
    cases hp
  · intro hlast
    cases lz with
    | none => rfl
    | some p =>
      obtain ⟨hp, hzero⟩ := h.zero p rfl
      obtain ⟨d, hd, hbefore, -⟩ := hzero.wireBefore hp
      exact absurd hbefore (hlast d hd)

/-- `g` is the next identifier after `f`. -/
structure IsNext (devices : List DeviceId) (f g : DeviceId) : Prop where
  mem : g ∈ devices
  after : wireBefore f g
  first : ∀ d ∈ devices, wireBefore f d → d = g ∨ wireBefore g d

/-- The next identifier leaves `f` at the last zero that the pass of `f` recorded. -/
theorem IsNext.diverges (hnext : IsNext devices f g) {p : WirePos} (h : IsLastZero devices f 64 (some p)) :
    AgreeBefore p.toNat f g ∧ DeviceId.wireBit f p.toNat = false ∧ DeviceId.wireBit g p.toNat = true := by
  obtain ⟨hp, hzero⟩ := h.zero p rfl
  obtain ⟨d, hd, hfd, hagree, hdbit⟩ := hzero.wireBefore hp
  obtain ⟨q, hq, hfg, hf, hg⟩ := hnext.after
  obtain ⟨p', hp', hle⟩ := h.last q hq ⟨hf, g, hnext.mem, AgreeBefore.symm hfg, hg⟩
  cases hp'
  obtain hlt | heq := hle.lt_or_eq
  · have hdq : DeviceId.wireBit d q = false := (hagree q hlt).trans hf
    have hdg : wireBefore d g := ⟨q, hq, fun k hk => (hagree k (by omega)).trans (hfg k hk), hdq, hg⟩
    obtain rfl | hgd := hnext.first d hd hfd
    · exact absurd hdg (wireBefore_irrefl d)
    · exact absurd hdg (wireBefore_asymm hgd)
  · exact heq ▸ ⟨hfg, hf, hg⟩

/-- The next pass finds the next identifier (R143, R154). -/
theorem IsNext.follows (hnext : IsNext devices f g) {p : WirePos} (h : IsLastZero devices f 64 (some p)) :
    Follows devices (some p) f g := by
  obtain ⟨hfg, hf, hg⟩ := hnext.diverges h
  rintro k hk ⟨d, hd, hagree, hne⟩
  obtain hlt | rfl | hgt := Nat.lt_trichotomy k p.toNat
  · rw [discrepancyDirection_before _ _ hlt, hfg k hlt]
  · rw [discrepancyDirection_at _ _ rfl, hg]
  · rw [discrepancyDirection_after _ _ hgt]
    by_contra hgk
    have hgk : DeviceId.wireBit g k = true := by simpa using hgk
    have hdg : wireBefore d g := ⟨k, hk, hagree, by simpa [hgk] using hne, hgk⟩
    have hfd : wireBefore f d :=
      ⟨p.toNat, p.isLt, hfg.trans (hagree.mono hgt.le).symm, hf, (hagree _ hgt).trans hg⟩
    obtain rfl | hgd := hnext.first d hd hfd
    · exact wireBefore_irrefl d hdg
    · exact wireBefore_asymm hgd hdg

end Sys2Proof.Machine
end

section
/-! The engine served by the reference bus, procedure by procedure: a RESET, a byte, a wire position. -/

namespace Sys2Proof.Machine

open Sys2Proof.Safety Sys2Proof.Claims

/-- `n` requests from `s` on, answered by the bus, come to `bus'` and `s'`. -/
def Served (n : Nat) (bus : Bus) (s : State) (bus' : Bus) (s' : State) : Prop :=
  ∀ k, serve hw (k + n) bus s = serve hw k bus' s'

variable {bus bus' bus'' : Bus} {s s' s'' : State} {m n : Nat}

theorem Served.refl : Served 0 bus s bus s := fun _ => rfl

theorem Served.trans (h₁ : Served m bus s bus' s') (h₂ : Served n bus' s' bus'' s'') :
    Served (m + n) bus s bus'' s'' := fun k => by rw [Nat.add_comm m, ← Nat.add_assoc, h₁, h₂]

/-- An outstanding `Configure` is done, and sets the UART of the bus. -/
theorem served_configured (p : ConfigPoint) :
    Served 1 bus (await (.configuring p) s) { bus with umode := Mode.ofConfig p.operand }
      (configured hw p (configureDone p.operand s)) := by
  intro k
  rw [serve_succ hw k (j := .configuring p) rfl (w := answerWord .nothing) rfl,
    takeAnswer_await_configuring hw s p (answerOfWord_answerWord_ne_failure .nothing)]

/-- An outstanding `Transceive` brings back what the bus gives. -/
theorem served_transceived (p : TransceivePoint) {r : Capture}
    (h : bus.answer (.transceive (p.byteSent hw s.sh)) = (answerWord r, bus')) :
    Served 1 bus (await (.transceiving p) s) bus'
      (transceived hw p r (recordEvent (.xfer (p.byteSent hw s.sh) r) s)) := by
  intro k
  rw [serve_succ hw k (s := await (.transceiving p) s) (j := .transceiving p) rfl h, takeAnswer_await_answerWord]

/-! ### RESET -/

/-- A bus with devices shows presence, and has its devices wait for a ROM command. -/
theorem served_reset (k : ResetCaller) (hconnected : bus.connected = true) (hdevices : bus.devices ≠ []) :
    Served 3 bus (startReset k s) { bus with umode := .dataMode, phase := .command [], part := bus.devices }
      (resetReturn k true (resetDone (.captured 0xE0#8) s)) := by
  have hentry : Served 1 bus (startReset k s) { bus with umode := .resetMode }
      (await (.transceiving (.resetPulse k)) (resetConfigured s)) := served_configured (.resetEntry k)
  have hpulse := served_transceived (s := resetConfigured s) (bus := { bus with umode := .resetMode }) (.resetPulse k)
    (r := .captured 0xE0#8) (bus' := { bus with umode := .resetMode, phase := .command [], part := bus.devices })
    (by simp [Bus.answer, hconnected, hdevices])
  have hexit := served_configured (bus := { bus with umode := .resetMode, phase := .command [], part := bus.devices })
    (s := resetPulsed (.captured 0xE0#8) s) (.resetExit k (.captured 0xE0#8))
  have hpulsed : recordEvent (.xfer 0xF0#8 (.captured 0xE0#8)) (resetConfigured s) = resetPulsed (.captured 0xE0#8) s := by
    simp [recordEvent, resetConfigured, resetPulsed]
  have hdone : configureDone .dataMode (resetPulsed (.captured 0xE0#8) s) = resetDone (.captured 0xE0#8) s := by
    simp [configureDone, recordEvent, Mode.ofConfig, resetPulsed, resetDone, resetOutcome]
  rw [TransceivePoint.byteSent, hw_patReset, hpulsed] at hpulse
  rw [ConfigPoint.operand, hdone] at hexit
  exact (hentry.trans hpulse).trans hexit

/-! ### A byte -/

/-- A slot in DATA_MODE, on a bus with devices. -/
theorem answer_slot (hconnected : bus.connected = true) (hdata : bus.umode = .dataMode) (t : Byte) :
    bus.answer (.transceive t) =
      (answerWord (.captured (if t = 0xFF#8 ∧ bus.pulls then 0xFE#8 else t)), bus.afterSlot (t == 0xFF#8)) := by
  simp [Bus.answer, hconnected, hdata]

@[simp] theorem slotByte_beq (v : Bool) : (slotByte v == 0xFF#8) = v := by cases v <;> rfl

/-- A write slot at which no device pulls gives the byte back. -/
theorem answer_writeSlot (hconnected : bus.connected = true) (hdata : bus.umode = .dataMode) (hpulls : bus.pulls = false)
    (v : Bool) : bus.answer (.transceive (slotByte v)) =
      (answerWord (.captured (slotByte v)), bus.afterSlot v) := by
  rw [answer_slot hconnected hdata, slotByte_beq, hpulls]
  simp

/-- The captures of the first `n` slots of a written byte. -/
def echoes (v : Byte) (n : Nat) : List Capture := (List.range n).map fun i => .captured (slotByte (v.getLsbD i))

/-- The bits of the first `n` slots of a written byte. -/
def bitsSent (v : Byte) (n : Nat) : List Bool := (List.range n).map v.getLsbD

theorem echoes_succ (v : Byte) (n : Nat) : echoes v (n + 1) = echoes v n ++ [.captured (slotByte (v.getLsbD n))] := by
  simp [echoes, List.range_succ]

theorem bitsSent_succ (v : Byte) (n : Nat) : bitsSent v (n + 1) = bitsSent v n ++ [v.getLsbD n] := by
  simp [bitsSent, List.range_succ]

@[simp] theorem length_echoes (v : Byte) (n : Nat) : (echoes v n).length = n := by simp [echoes]

@[simp] theorem length_bitsSent (v : Byte) (n : Nat) : (bitsSent v n).length = n := by simp [bitsSent]

/-- A bus whose devices have taken the bits `bits` of a ROM command byte. -/
def commandBus (bus : Bus) (bits : List Bool) : Bus := { bus with phase := .command bits }

/-- One slot of a ROM command byte. -/
theorem served_writeSlot (c : WriteCaller) (v : Byte) (hconnected : bus.connected = true) (hdata : bus.umode = .dataMode)
    (hn : n < 8) :
    Served 1 (commandBus bus (bitsSent v n)) (await (.transceiving (.writeSlot c)) (slotsWritten v (echoes v n) s))
      ((commandBus bus (bitsSent v n)).afterSlot (v.getLsbD n))
      (if n + 1 < 8 then await (.transceiving (.writeSlot c)) (slotsWritten v (echoes v (n + 1)) s)
        else writeReturn c (slotsWritten v (echoes v (n + 1)) s)) := by
  have hlen : (echoes v n).length < 8 := by simpa using hn
  have hbyte := byteSent_slotsWritten (v := v) (s := s) c hlen
  rw [length_echoes] at hbyte
  have hslot := served_transceived (bus := commandBus bus (bitsSent v n)) (s := slotsWritten v (echoes v n) s)
    (.writeSlot c) (by rw [hbyte]; exact answer_writeSlot (bus := commandBus bus _) hconnected hdata rfl (v.getLsbD n))
  rw [echoes_succ, slotsWritten_concat c _ hlen]
  have hcount : ((slotsWritten v (echoes v n) s).bitcnt + 1#4).toNat = n + 1 := by simp [slotsWritten]; omega
  by_cases hmore : n + 1 < 8
  · rw [if_pos hmore]
    rwa [transceived, writeSlotDone_more _ _ (by simpa [recordEvent, hcount] using hmore)] at hslot
  · rw [if_neg hmore]
    rwa [transceived, writeSlotDone_last _ _ (by simpa [recordEvent, hcount] using hmore)] at hslot

/-- Fewer than eight slots of a ROM command byte. -/
theorem served_slotsWritten (c : WriteCaller) (v : Byte) (hconnected : bus.connected = true)
    (hdata : bus.umode = .dataMode) (hn : n < 8) :
    Served n (commandBus bus []) (startWriteByte c v s) (commandBus bus (bitsSent v n))
      (await (.transceiving (.writeSlot c)) (slotsWritten v (echoes v n) s)) := by
  induction n with
  | zero => exact startWriteByte_eq c ▸ .refl
  | succ n ih =>
    have hslot := served_writeSlot (n := n) (s := s) c v hconnected hdata (by omega)
    have hphase : (commandBus bus (bitsSent v n)).afterSlot (v.getLsbD n) = commandBus bus (bitsSent v (n + 1)) := by
      simp [Bus.afterSlot, commandBus, bitsSent_succ, show n + 1 < 8 from hn]
    rw [if_pos hn, hphase] at hslot
    exact (ih (by omega)).trans hslot

/-- A ROM command byte sets the phase of the bus. -/
theorem served_byteWritten (c : WriteCaller) (v : Byte) (hconnected : bus.connected = true)
    (hdata : bus.umode = .dataMode) :
    Served 8 (commandBus bus []) (startWriteByte c v s)
      { bus with phase := phaseOfCommand (byteOfBits (bitsSent v 8)) } (writeReturn c (slotsWritten v (echoes v 8) s)) := by
  have hlast := served_writeSlot (n := 7) (s := s) c v hconnected hdata (by omega)
  have hphase : (commandBus bus (bitsSent v 7)).afterSlot (v.getLsbD 7) =
      { bus with phase := phaseOfCommand (byteOfBits (bitsSent v 8)) } := by
    simp [Bus.afterSlot, commandBus, bitsSent_succ v 7]
  rw [hphase] at hlast
  exact (served_slotsWritten c v hconnected hdata (by omega)).trans hlast

end Sys2Proof.Machine
end

section
/-! A search pass on the reference bus that finds `f`: at each wire position the devices that agree with `f` so far take part
(95_test_vectors.md part 2), and the engine goes on with the bit of `f` (43_rom_search.md R142, R143). -/

namespace Sys2Proof.Machine

open Sys2Proof.Safety Sys2Proof.Claims

/-! ### What the bus answers at a wire position -/

section Participants

variable {devices : List DeviceId} {f d : DeviceId} {k : Nat}

/-- The devices that take part at wire position `k` of a pass that finds `f`. -/
def participants (devices : List DeviceId) (f : DeviceId) (k : Nat) : List DeviceId :=
  devices.filter fun d => (List.range k).all fun j => DeviceId.wireBit d j == DeviceId.wireBit f j

theorem mem_participants : d ∈ participants devices f k ↔ d ∈ devices ∧ AgreeBefore k d f := by
  simp [participants, AgreeBefore]

@[simp] theorem participants_zero : participants devices f 0 = devices := by simp [participants]

theorem participants_succ : participants devices f (k + 1) =
    (participants devices f k).filter fun d => DeviceId.wireBit d k == DeviceId.wireBit f k := by
  simp [participants, List.range_succ, List.filter_filter, Bool.and_comm]

/-- The capture of a read slot that a device pulls low, or none does. -/
def readCapture (pulled : Bool) : Capture := .captured (if pulled then 0xFE#8 else 0xFF#8)

@[simp] theorem readsOne_readCapture (pulled : Bool) : readsOne (readCapture pulled) = !pulled := by cases pulled <;> rfl

/-- The captures of wire position `k` of a pass that finds `f`. -/
def targetAnswers (devices : List DeviceId) (f : DeviceId) (k : Nat) : PositionAnswers where
  first := readCapture ((participants devices f k).any fun d => !DeviceId.wireBit d k)
  second := readCapture ((participants devices f k).any fun d => DeviceId.wireBit d k)
  writeBack := .captured (slotByte (DeviceId.wireBit f k))

theorem first_readsOne_iff : readsOne (targetAnswers devices f k).first = true ↔
    ∀ d ∈ devices, AgreeBefore k d f → DeviceId.wireBit d k = true := by
  simp [targetAnswers, mem_participants]

theorem second_readsOne_iff : readsOne (targetAnswers devices f k).second = true ↔
    ∀ d ∈ devices, AgreeBefore k d f → DeviceId.wireBit d k = false := by
  simp [targetAnswers, mem_participants]

/-- The device found takes part everywhere, so that no position reads (1,1). -/
theorem isAnomaly_targetAnswers (hf : f ∈ devices) : isAnomaly (targetAnswers devices f k) = false := by
  rw [← Bool.not_eq_true, isAnomaly, Bool.and_eq_true, first_readsOne_iff, second_readsOne_iff]
  rintro ⟨hone, hzero⟩
  exact absurd ((hone f hf fun _ _ => rfl).symm.trans (hzero f hf fun _ _ => rfl)) nofun

/-- The engine records a zero exactly where the device found takes 0 at a discrepancy (R144). -/
theorem recordsZero_iff (hf : f ∈ devices) :
    (!readsOne (targetAnswers devices f k).first && !readsOne (targetAnswers devices f k).second &&
      !DeviceId.wireBit f k) = true ↔ TakesZero devices f k := by
  have hsecond : (!readsOne (targetAnswers devices f k).second) = true ↔
      ∃ d ∈ devices, AgreeBefore k d f ∧ DeviceId.wireBit d k = true := by
    simp [targetAnswers, mem_participants, and_assoc]
  have hfirst : DeviceId.wireBit f k = false → readsOne (targetAnswers devices f k).first = false := fun hbit =>
    Bool.eq_false_iff.mpr fun hone => absurd (hbit.symm.trans (first_readsOne_iff.mp hone f hf fun _ _ => rfl)) nofun
  rw [Bool.and_eq_true, Bool.and_eq_true, hsecond, TakesZero, Bool.not_eq_true', Bool.not_eq_true']
  exact ⟨fun h => ⟨h.2, h.1.2⟩, fun h => ⟨⟨hfirst h.1, h.2⟩, h.1⟩⟩

end Participants

/-! ### What the engine finds -/

section Found

variable {devices : List DeviceId} {path f : DeviceId} {n : Nat} {s : State}

/-- The first `n` wire positions of a pass found the bits of `f`; the others still hold the path of the pass before. -/
structure Following (devices : List DeviceId) (path f : DeviceId) (n : Nat) (s : State) : Prop where
  pos : s.pos.toNat = n
  found : ∀ k < n, DeviceId.wireBit s.curId k = DeviceId.wireBit f k
  replayed : ∀ k < 64, n ≤ k → DeviceId.wireBit s.curId k = DeviceId.wireBit path k
  lz : IsLastZero devices f n s.lz

theorem discrepancyDirection_congr (ld : Option WirePos) {a b : DeviceId}
    (h : DeviceId.wireBit a n = DeviceId.wireBit b n) : discrepancyDirection ld a n = discrepancyDirection ld b n := by
  simp only [discrepancyDirection, h]

/-- The direction is the bit of `f`: by R142 where all who take part agree, by R143 where they do not. -/
theorem Following.takenDirection (h : Following devices path f n s) (hn : n < 64) (hf : f ∈ devices)
    (hfollows : Follows devices s.ld path f) :
    takenDirection s (targetAnswers devices f n) = DeviceId.wireBit f n := by
  rw [Machine.takenDirection, h.pos]
  cases hfirst : readsOne (targetAnswers devices f n).first with
  | true =>
    have hsecond := isAnomaly_targetAnswers (k := n) hf
    rw [isAnomaly, hfirst, Bool.true_and] at hsecond
    rw [hsecond, first_readsOne_iff.mp hfirst f hf fun _ _ => rfl]
    rfl
  | false =>
    cases hsecond : readsOne (targetAnswers devices f n).second with
    | true => rw [second_readsOne_iff.mp hsecond f hf fun _ _ => rfl]; rfl
    | false =>
      rw [searchDirection_discrepancy, discrepancyDirection_congr s.ld (h.replayed n hn le_rfl)]
      refine (hfollows n hn ?_).symm
      cases hbit : DeviceId.wireBit f n with
      | true => simpa [← Bool.not_eq_true, first_readsOne_iff] using hfirst
      | false => simpa [← Bool.not_eq_true, second_readsOne_iff] using hsecond

theorem TakesZero.isLastZero {p : WirePos} (hzero : TakesZero devices f n) (hp : p.toNat = n) : IsLastZero devices f (n + 1) (some p) where
  zero := by
    rintro _ ⟨⟩
    exact ⟨by omega, hp ▸ hzero⟩
  last q hq _ := ⟨p, rfl, by omega⟩

theorem IsLastZero.succ {lz : Option WirePos} (h : IsLastZero devices f n lz)
    (hzero : ¬ TakesZero devices f n) : IsLastZero devices f (n + 1) lz where
  zero p hp := ⟨(h.zero p hp).1.trans (Nat.lt_succ_self n), (h.zero p hp).2⟩
  last q hq hq' := h.last q (Nat.lt_of_le_of_ne (Nat.le_of_lt_succ hq) fun heq => hzero (heq ▸ hq')) hq'

theorem Following.positionTaken (h : Following devices path f n s) (hn : n < 64) (hf : f ∈ devices)
    (hfollows : Follows devices s.ld path f) :
    Following devices path f (n + 1) (positionTaken s (targetAnswers devices f n)) := by
  have hdirection := h.takenDirection hn hf hfollows
  have hbit (k : Nat) (hk : k < 64) : DeviceId.wireBit (Machine.positionTaken s (targetAnswers devices f n)).curId k =
      if k = n then DeviceId.wireBit f n else DeviceId.wireBit s.curId k := by
    simp only [Machine.positionTaken, positionChosen, hdirection, h.pos]
    exact DeviceId.wireBit_withBit s.curId n _ k hn hk
  refine ⟨by simp [Machine.positionTaken, h.pos]; omega, fun k hk => ?_, fun k hk hnk => ?_, ?_⟩
  · rw [hbit k (by omega)]
    split
    · next hkn => rw [hkn]
    · exact h.found k (by omega)
  · rw [hbit k hk, if_neg (by omega)]
    exact h.replayed k hk (by omega)
  · simp only [Machine.positionTaken, positionChosen, hdirection]
    by_cases hzero : TakesZero devices f n
    · rw [(recordsZero_iff hf).mpr hzero]
      exact hzero.isLastZero (by simp [h.pos, hn])
    · rw [Bool.eq_false_iff.mpr fun hrecords => hzero ((recordsZero_iff hf).mp hrecords)]
      exact h.lz.succ hzero

/-- What a pass that finds `f` leaves after its first `n` wire positions. -/
def searched (devices : List DeviceId) (f : DeviceId) (s : State) (n : Nat) : State :=
  ((List.range n).map (targetAnswers devices f)).foldl positionTaken s

theorem searched_succ : searched devices f s (n + 1) = positionTaken (searched devices f s n) (targetAnswers devices f n) := by
  simp [searched, List.range_succ]

theorem onlySearched_searched (s : State) (n : Nat) : OnlySearched s (searched devices f s n) := onlySearched_positionsTaken _ s

theorem length_trace_searched : (searched devices f s n).trace.length = s.trace.length + 3 * n := by
  obtain ⟨es, htrace, hes⟩ := positionsTaken_trace ((List.range n).map (targetAnswers devices f)) s
  simpa [searched, hes] using congrArg List.length htrace

theorem Following.searched (h : Following devices path f 0 s) (hf : f ∈ devices) (hfollows : Follows devices s.ld path f)
    (hn : n ≤ 64) : Following devices path f n (searched devices f s n) := by
  induction n with
  | zero => exact h
  | succ n ih =>
    rw [searched_succ]
    exact (ih (by omega)).positionTaken hn hf ((onlySearched_searched s n).ld ▸ hfollows)

end Found

/-! ### The engine and the bus -/

section Positions

variable {bus : Bus} {f : DeviceId} {k : Nat} {s : State} (o : Owner)

/-- The bus at the beginning of wire position `k` of a pass that finds `f`. -/
def searchBus (bus : Bus) (f : DeviceId) (k : Nat) : Bus :=
  { bus with phase := if k < 64 then .search k 0 else .function, part := participants bus.devices f k }

/-- The bus before slot `i` of wire position `k` of a pass that finds `f`. -/
def readBus (bus : Bus) (f : DeviceId) (k i : Nat) : Bus :=
  { bus with phase := .search k i, part := participants bus.devices f k }

/-- A read slot in DATA_MODE, on a bus with devices. -/
theorem answer_readSlot (hconnected : bus.connected = true) (hdata : bus.umode = .dataMode) :
    bus.answer (.transceive 0xFF#8) = (answerWord (readCapture bus.pulls), bus.afterSlot true) := by
  simp [answer_slot hconnected hdata, readCapture]

/-- The two reads of a wire position, taken: the direction goes out. -/
theorem positionRead_eq_chosen {p : PositionAnswers} (h : isAnomaly p = false) :
    positionRead o (readsOne p.first) (readsOne p.second)
        (recordEvent (.xfer 0xFF#8 p.second) (recordEvent (.xfer 0xFF#8 p.first) s)) =
      await (.transceiving (.search o (.writeBack (takenDirection s p)))) (positionChosen s p) := by
  rw [positionRead_direction _ o _ _ h]
  simp [recordEvent, positionChosen, takenDirection]

/-- The write-back of a wire position, taken: the next position, or the end of the pass. -/
theorem positionDone_eq_taken (p : PositionAnswers) :
    positionDone hw o (recordEvent (.xfer (slotByte (takenDirection s p)) p.writeBack) (positionChosen s p)) =
      if (s.pos + 1#7).toNat < 64 then startPosition o (positionTaken s p) else passComplete hw o (positionTaken s p) := rfl

/-- One wire position. -/
theorem served_position (hconnected : bus.connected = true) (hdata : bus.umode = .dataMode) (hf : f ∈ bus.devices)
    (hpos : s.pos.toNat = k) (hk : k < 64) (htaken : takenDirection s (targetAnswers bus.devices f k) = DeviceId.wireBit f k) :
    Served 3 (searchBus bus f k) (startPosition o s) (searchBus bus f (k + 1))
      (if k + 1 < 64 then startPosition o (positionTaken s (targetAnswers bus.devices f k))
        else passComplete hw o (positionTaken s (targetAnswers bus.devices f k))) := by
  have hstart : searchBus bus f k = readBus bus f k 0 := by simp [searchBus, readBus, hk]
  have hend : (readBus bus f k 2).afterSlot (DeviceId.wireBit f k) = searchBus bus f (k + 1) := by
    simp [searchBus, readBus, Bus.afterSlot, participants_succ]
  have hcount : (s.pos + 1#7).toNat = k + 1 := by simp [hpos]; omega
  have hfirst := served_transceived (s := s) (.search o .firstRead)
    (answer_readSlot (bus := readBus bus f k 0) hconnected hdata)
  have hsecond := served_transceived (s := recordEvent (.xfer 0xFF#8 (targetAnswers bus.devices f k).first) s)
    (.search o (.secondRead (readsOne (targetAnswers bus.devices f k).first)))
    (answer_readSlot (bus := readBus bus f k 1) hconnected hdata)
  have hwrite := served_transceived (s := positionChosen s (targetAnswers bus.devices f k))
    (.search o (.writeBack (DeviceId.wireBit f k)))
    (answer_writeSlot (bus := readBus bus f k 2) hconnected hdata rfl (DeviceId.wireBit f k))
  have hchosen := positionRead_eq_chosen (s := s) o (isAnomaly_targetAnswers (k := k) hf)
  have hdone := positionDone_eq_taken (s := s) o (targetAnswers bus.devices f k)
  rw [transceived, hw_decodeBit] at hfirst
  rw [transceived, hw_decodeBit] at hsecond
  rw [htaken] at hchosen hdone
  rw [hcount] at hdone
  rw [hend] at hwrite
  rw [hstart, ← hdone]
  exact (hfirst.trans (hchosen ▸ hsecond)).trans hwrite

/-- All the wire positions of a pass. -/
theorem served_positions (hconnected : bus.connected = true) (hdata : bus.umode = .dataMode) (hf : f ∈ bus.devices)
    {path : DeviceId} (h : Following bus.devices path f 0 s) (hfollows : Follows bus.devices s.ld path f) :
    Served 192 (searchBus bus f 0) (startPosition o s) (searchBus bus f 64)
      (passComplete hw o (searched bus.devices f s 64)) := by
  have hone (k : Nat) (hk : k < 64) := served_position (s := searched bus.devices f s k) o hconnected hdata hf
    (h.searched hf hfollows hk.le).pos hk
    ((h.searched hf hfollows hk.le).takenDirection hk hf ((onlySearched_searched s k).ld ▸ hfollows))
  have hmore (k : Nat) (hk : k < 64) : Served (3 * k) (searchBus bus f 0) (startPosition o s) (searchBus bus f k)
      (startPosition o (searched bus.devices f s k)) := by
    induction k with
    | zero => exact .refl
    | succ k ih =>
      have hnext := hone k (by omega)
      rw [if_pos hk, ← searched_succ] at hnext
      exact (ih (by omega)).trans hnext
  have hlast := hone 63 (by omega)
  rw [if_neg (by omega), ← searched_succ] at hlast
  exact (hmore 63 (by omega)).trans hlast

end Positions

end Sys2Proof.Machine
end

section
/-! The enumeration on the reference bus (43_rom_search.md R153, R154): pass by pass, the identifiers in discovery order. -/

namespace Sys2Proof.Machine

open Sys2Proof.Safety Sys2Proof.Claims

variable {bus : Bus} {devices pre post : List DeviceId} {f g : DeviceId} {s t : State} (o : Owner)

/-! ### One pass -/

/-- What a pass leaves that found `f` among the devices, in 203 requests. -/
structure PassFound (devices : List DeviceId) (f : DeviceId) (s t : State) : Prop where
  curId : t.curId = f
  lz : IsLastZero devices f 64 t.lz
  reg : t.reg = s.reg
  errCode : t.errCode = .noError
  responses : t.responses = s.responses
  trace : t.trace.length = s.trace.length + 203

/-- The state in which a pass on a bus with devices reads its first wire position. -/
def passBegun (s : State) : State := passOpened (.captured 0xE0#8) (echoes romSearchByte 8) s

theorem following_passBegun : Following devices s.curId f 0 (passBegun s) where
  pos := rfl
  found := nofun
  replayed _ _ _ := rfl
  lz := ⟨nofun, nofun⟩

theorem passFound_searched (hf : f ∈ devices) (hfollows : Follows devices s.ld s.curId f) :
    PassFound devices f s (searched devices f (passBegun s) 64) := by
  have hframe := onlySearched_searched (devices := devices) (f := f) (passBegun s) 64
  have hfound := following_passBegun.searched (s := passBegun s) hf hfollows le_rfl
  refine ⟨DeviceId.ext_wireBit _ _ hfound.found, hfound.lz, hframe.reg, hframe.errCode, hframe.responses, ?_⟩
  rw [length_trace_searched]
  simp [passBegun, passOpened, slotsWritten, resetDone, slotEvents]

/-- A pass of the engine on the bus: 3 requests of its RESET, 8 of the Search ROM byte, 3 for each wire position. -/
theorem served_pass (hconnected : bus.connected = true) (hf : f ∈ bus.devices)
    (hfollows : Follows bus.devices s.ld s.curId f) :
    Served 203 bus (startPass o s) (searchBus { bus with umode := .dataMode } f 64)
      (passComplete hw o (searched bus.devices f (passBegun s) 64)) := by
  have hreset := served_reset (s := s) (.pass o) hconnected (List.ne_nil_of_mem hf)
  have hbyte := served_byteWritten (bus := { bus with umode := .dataMode, part := bus.devices })
    (s := resetDone (.captured 0xE0#8) s) (.pass o) romSearchByte hconnected rfl
  have hpositions := served_positions (bus := { bus with umode := .dataMode }) (s := passBegun s) o hconnected rfl hf
    following_passBegun hfollows
  have hphase : searchBus { bus with umode := .dataMode } f 0 =
      { bus with umode := .dataMode, phase := .search 0 0, part := bus.devices } := by simp [searchBus]
  rw [hphase] at hpositions
  exact (hreset.trans hbyte).trans hpositions

/-! ### All passes -/

theorem mem_of_wireBefore (hsorted : (pre ++ f :: post).Pairwise wireBefore) {d : DeviceId} (hd : d ∈ pre ++ f :: post)
    (hfd : wireBefore f d) : d ∈ post := by
  obtain ⟨-, -, hpre⟩ := List.pairwise_append.mp hsorted
  obtain hd | hd := List.mem_append.mp hd
  · exact absurd (hpre d hd f List.mem_cons_self) (wireBefore_asymm hfd)
  · obtain rfl | hd := List.mem_cons.mp hd
    · exact absurd hfd (wireBefore_irrefl d)
    · exact hd

theorem isNext_of_sorted (hsorted : (pre ++ f :: g :: post).Pairwise wireBefore)
    (hmem : ∀ d, d ∈ devices ↔ d ∈ pre ++ f :: g :: post) : IsNext devices f g := by
  obtain ⟨-, hpost, -⟩ := List.pairwise_append.mp hsorted
  obtain ⟨hf, hpost⟩ := List.pairwise_cons.mp hpost
  refine ⟨(hmem g).mpr (by simp), hf g List.mem_cons_self, fun d hd hfd => ?_⟩
  obtain rfl | hd := List.mem_cons.mp (mem_of_wireBefore hsorted ((hmem d).mp hd) hfd)
  · exact .inl rfl
  · exact .inr ((List.pairwise_cons.mp hpost).1 d hd)

/-- The append behind the identifiers before `f`. -/
theorem PassFound.storedRegistry (h : PassFound devices f s t) (hsorted : (s.reg ++ f :: post).Pairwise wireBefore) :
    storedRegistry t = s.reg ++ [f] := by
  obtain ⟨-, -, hpre⟩ := List.pairwise_append.mp hsorted
  have hnew : f ∉ s.reg := fun hf => wireBefore_irrefl f (hpre f hf f List.mem_cons_self)
  rw [Machine.storedRegistry, h.curId, h.reg, if_neg hnew]

/-- What an enumeration leaves that found `found`, in `n` passes. -/
structure Enumerated (found : List DeviceId) (n : Nat) (s t : State) : Prop where
  reg : t.reg = found
  errCode : t.errCode = .noError
  responses : t.responses = s.responses
  trace : t.trace.length = s.trace.length + 203 * n

/-- With the identifiers before `f` in the registry, and the direction rule set to find `f`, the enumeration finds `f` and the
identifiers after it. -/
theorem served_enumeration (hfit : (s.reg ++ f :: post).length ≤ hw.regCapacity)
    (hsorted : (s.reg ++ f :: post).Pairwise wireBefore) (hmem : ∀ d, d ∈ bus.devices ↔ d ∈ s.reg ++ f :: post)
    (hconnected : bus.connected = true) (hfollows : Follows bus.devices s.ld s.curId f) :
    ∃ bus' t, Enumerated (s.reg ++ f :: post) (post.length + 1) s t ∧
      Served (203 * (post.length + 1)) bus (startPass o s) bus'
        (answered (enumerationResponse o .ok (s.reg ++ f :: post)) t) := by
  have hf : f ∈ bus.devices := (hmem f).mpr (by simp)
  induction post generalizing f s bus with
  | nil =>
    have hfound := passFound_searched hf hfollows
    have hpass := served_pass (s := s) o hconnected hf hfollows
    generalize searched bus.devices f (passBegun s) 64 = t at hfound hpass
    have hroom : t.reg.length < hw.regCapacity := by rw [hfound.reg]; simpa using hfit
    have hlast : t.lz = none := hfound.lz.eq_none_iff.mpr fun d hd hfd =>
      List.not_mem_nil (mem_of_wireBefore hsorted ((hmem d).mp hd) hfd)
    rw [passComplete_end t hw o (.inr hroom) hlast, hfound.storedRegistry hsorted] at hpass
    exact ⟨_, { t with reg := s.reg ++ [f] }, ⟨rfl, hfound.errCode, hfound.responses, hfound.trace⟩, hpass⟩
  | cons g post ih =>
    have hfound := passFound_searched hf hfollows
    have hpass := served_pass (s := s) o hconnected hf hfollows
    generalize searched bus.devices f (passBegun s) 64 = t at hfound hpass
    have hnext := isNext_of_sorted hsorted hmem
    have hroom : t.reg.length < hw.regCapacity := by rw [hfound.reg]; simp at hfit; omega
    obtain ⟨p, hp⟩ := Option.ne_none_iff_exists'.mp fun hnone =>
      hfound.lz.eq_none_iff.mp hnone g hnext.mem hnext.after
    rw [passComplete_more t hw o (.inr hroom) hp, hfound.storedRegistry hsorted] at hpass
    have hrest : (s.reg ++ [f]) ++ g :: post = s.reg ++ f :: g :: post := by simp
    obtain ⟨bus', u, hu, hserved⟩ := ih (bus := searchBus { bus with umode := .dataMode } f 64) (f := g)
      (s := { t with reg := s.reg ++ [f], ld := some p }) (hrest ▸ hfit) (hrest ▸ hsorted) (fun d => hrest ▸ hmem d)
      hconnected (hfound.curId ▸ hnext.follows (hp ▸ hfound.lz)) hnext.mem
    rw [hrest] at hu hserved
    refine ⟨bus', u, ⟨hu.reg, hu.errCode, hu.responses.trans hfound.responses, ?_⟩, ?_⟩
    · rw [hu.trace, hfound.trace, List.length_cons]
      omega
    · rw [List.length_cons, show 203 * (post.length + 1 + 1) = 203 + 203 * (post.length + 1) by omega]
      exact hpass.trans hserved

/-- DISCOVER on an idle engine without answers waits on the bus. -/
theorem exec_discover_waits (arg : Byte) (hjob : s.job = none) (hinbox : s.inbox = []) :
    exec (.discover arg) s = .next (startDiscover .discover s) := by
  have hexec : exec (.discover arg) s = .next (runCommand hw (startDiscover .discover) s) := rfl
  have hnone : (startDiscover .discover s).inbox = [] := hinbox
  rw [hexec, runCommand_idle hw s _ hjob, hnone, drainQueue_nil, ← hnone]

end Sys2Proof.Machine

namespace Sys2Proof.Claims

open Sys2Proof.Machine Sys2Proof.Safety

/-- Settles O43, by the passes of the engine on the bus, each of which finds the next identifier in discovery order. -/
theorem discoveryFindsEveryDevice : Obligations.DiscoveryFindsEveryDevice := by
  unfold Obligations.DiscoveryFindsEveryDevice
  intro arg s u bus hjob hinbox hconnected hdevices hnodup hfit hexec
  cases (exec_discover_waits arg hjob hinbox).symm.trans hexec
  obtain ⟨sorted, hperm, hsorted⟩ := exists_discoveryOrder bus.devices hnodup
  cases sorted with
  | nil => exact absurd hperm.nil_eq.symm hdevices
  | cons f post =>
    have hfirst : ∀ d ∈ bus.devices, d = f ∨ wireBefore f d := fun d hd =>
      (List.mem_cons.mp (hperm.mem_iff.mpr hd)).imp_right ((List.pairwise_cons.mp hsorted).1 d)
    obtain ⟨bus', t, ht, hserved⟩ := served_enumeration (s := clearForEnumeration s) .discover (hperm.length_eq ▸ hfit)
      hsorted (fun d => hperm.mem_iff.symm) hconnected (follows_first _ hfirst)
    have hend := hserved 0
    rw [Nat.zero_add] at hend
    have hlen : post.length + 1 = bus.devices.length := hperm.length_eq
    refine ⟨_, answered _ t, hend, rfl, (List.Perm.of_eq ht.reg).trans hperm, ht.reg.symm ▸ hsorted, ht.errCode, ?_, hlen ▸ ht.trace⟩
    exact congrArg₂ (fun rs reg => rs ++ [enumerationResponse .discover .ok reg]) ht.responses ht.reg.symm

end Sys2Proof.Claims
end
